-- ==== Sys2Proof/Word.lean ====
section
/-! DEFINITION. The two word types of the block and the pad word of program memory.

Bit 0 is the least significant bit of every word (R8). `s(v)` of R9 is `BitVec.toInt`, `u(v)` is
`BitVec.toNat`. -/

namespace Sys2Proof

/-- A data word: 24 bits, native format S.23 (R7, R9, D1). ACC, PACC, LR, every register and every
sample of the delay memory is one. -/
abbrev Word := BitVec 24

/-- An instruction word: 32 bits (R7, R90, D2). -/
abbrev Word32 := BitVec 32

/-- One byte of a binary image offered to `Load` (R124). No other byte exists in the block (R72). -/
abbrev Byte := BitVec 8

/-- The word held by every unused program slot: the encoding of `SKP 0,0` (R22, D37). -/
abbrev padWord : Word32 := 0x00000011#32

end Sys2Proof
end

