-- ==== Sys2Proof/Config.lean ====
section
/-! DEFINITION. The implementation parameters of R7: the fixed sizes, and the four OPEN parameters
(`RND`, the LOG/EXP kernels, the sine kernels, `IDLE_OUT`).

An open parameter has a default, which the spec's rules and vectors assume, and at least one
alternative. `Config` holds the choices as plain data; the machine carries one `Config` in its State
(log entry 1), so a statement about every state holds for every choice, and a run from reset takes
the defaults. A kernel other than the reference one is an opaque constant: nothing can be proved of
its values beyond the properties R172, R173 and R254 list (log entries 3 and 4). -/

namespace Sys2Proof

/-- `NINSTR`: program memory slots (R7). -/
abbrev Config.nInstr : Nat := 128

/-- `DSIZE`: delay memory words (R7, R39). -/
abbrev Config.dSize : Nat := 32768

/-- The parameter `RND`: how a product is reduced (R165, C1, D10). -/
inductive Rounding where
  /-- Add half an LSB and floor: ties go toward plus infinity. The default. -/
  | nearest
  /-- Arithmetic shift right: toward minus infinity. -/
  | floor
  deriving DecidableEq, Repr

/-- Which pair of kernels an open kernel parameter stands for (D13, D43). -/
inductive KernelChoice where
  /-- The reference functions of R172, R173 or R254. The default. -/
  | reference
  /-- Any other kernels with the properties the rule lists. -/
  | other
  deriving DecidableEq, Repr

/-- The parameter `IDLE_OUT`: what a tick in Idle puts on the outputs (R140, D24). -/
inductive IdleOut where
  /-- `(0, 0)`. The default. -/
  | zero
  /-- `(in_l, in_r)`, the alternative of D24. -/
  | passThrough
  deriving DecidableEq, Repr

/-- The open parameters of R7. -/
structure Config where
  /-- `RND` -/
  rnd : Rounding
  /-- `LOG2FN` and `EXP2FN` -/
  logExp : KernelChoice
  /-- `SINFN` and `COSFN` -/
  sinCos : KernelChoice
  /-- `IDLE_OUT` -/
  idleOut : IdleOut
  deriving DecidableEq, Repr

/-- The defaults of R7, which every vector of the spec assumes. -/
def Config.default : Config :=
  { rnd := .nearest, logExp := .reference, sinCos := .reference, idleOut := .zero }

/-- FREE VALUE (log entry 3): what a LOG kernel other than the reference one answers between the
points that R172 fixes. -/
opaque Config.otherLog2 : Nat → Int

/-- FREE VALUE (log entry 3): what an EXP kernel other than the reference one answers between the
points that R173 fixes. -/
opaque Config.otherExp2 : Int → Int

/-- FREE VALUE (log entry 4): what a sine kernel other than the reference one answers between the
quadrant points that R254 fixes. -/
opaque Config.otherSin : Nat → Int

end Sys2Proof
end

