-- ==== Sys2Proof/Machine/Kernels.lean ====
section
/-! DEFINITION. The kernels of LOG, EXP and the sine oscillators (R172, R173, R254): the reference
functions as exact integer algorithms, and the open alternative (log entries 2, 3 and 4). -/

namespace Sys2Proof.Machine

/-! ### The base-2 logarithm and exponential -/

/-- Repeated squaring: `squareTimes k v = v ^ (2 ^ k)`. -/
def squareTimes : Nat → Nat → Nat
  | 0, v => v
  | k + 1, v => squareTimes k (v * v)

/-- Bounds on a number as two mantissas over one exponent: `lo * 2^e ≤ x ≤ hi * 2^e`. -/
structure Bounds where
  lo : Nat
  hi : Nat
  e : Nat
  deriving DecidableEq, Repr

/-- Bounds on the square, the mantissas cut to 64 bits: the lower one rounded down, the upper one up. -/
def Bounds.square (b : Bounds) : Bounds :=
  let s := Nat.log2 (b.hi * b.hi) + 1 - 64
  { lo := (b.lo * b.lo) >>> s
    hi := (b.hi * b.hi + (2 ^ s - 1)) >>> s
    e := 2 * b.e + s }

/-- Bounds on `x ^ (2 ^ k)`. -/
def Bounds.squareTimes : Nat → Bounds → Bounds
  | 0, b => b
  | k + 1, b => Bounds.squareTimes k b.square

/-- `⌊log2(v) * 2^19⌋` for `v ≥ 1`, that is `⌊log2(v ^ (2^19))⌋`, exactly: read off 64-bit bounds
where they agree, and off the power itself where they do not. -/
def floorLog2 (v : Nat) : Nat :=
  let b := Bounds.squareTimes 19 ⟨v, v, 0⟩
  if Nat.log2 b.lo = Nat.log2 b.hi then Nat.log2 b.lo + b.e
  else Nat.log2 (squareTimes 19 v)

/-- Whether `v` is a power of two. -/
def isPow2 (v : Nat) : Bool := v == 2 ^ Nat.log2 v

/-- The reference `LOG2FN` of R172 on a magnitude: `max(-2^23, ⌊log2(m / 2^23) * 2^19⌋)`, and the
most negative word at 0. -/
def log2Ref (m : Nat) : Int :=
  if m = 0 then -8388608
  else max (-8388608) ((floorLog2 m : Int) - 23 * 524288)

/-- Whether `v ≤ 2^(t / 2^19)`, exactly. -/
def leExp2 (v t : Nat) : Bool :=
  let l := floorLog2 v
  decide (l < t) || (decide (l = t) && isPow2 v)

/-- The largest `v` with `v ≤ 2^(t / 2^19)`, found bit by bit from bit `k - 1` down, `v` being the
bits already found. -/
def searchExp2 (t : Nat) : Nat → Nat → Nat
  | 0, v => v
  | k + 1, v => searchExp2 t k (if leExp2 (v + 2 ^ k) t then v + 2 ^ k else v)

/-- The reference `EXP2FN` of R173: `⌊2^(a / 2^19) * 2^23⌋` below 0, and 8388607 from 0 on. -/
def exp2Ref (a : Int) : Int :=
  if 0 ≤ a then 8388607
  else searchExp2 (a + 23 * 524288).toNat 23 0

/-- A value kept between two bounds. -/
def clampInt (lo hi x : Int) : Int := max lo (min x hi)

/-- An open `LOG2FN` (R172): the exact points are kept, and between two of them the value is free
but lies between theirs, as a monotone function's must. -/
def log2Other (m : Nat) : Int :=
  if m ≤ 128 then -8388608
  else
    let k := Nat.log2 m
    let lo := ((k : Int) - 23) * 524288
    if isPow2 m then lo else clampInt lo (min (-1) (lo + 524288)) (Config.otherLog2 m)

/-- An open `EXP2FN` (R173), in the same way. -/
def exp2Other (a : Int) : Int :=
  if 0 ≤ a then 8388607
  else
    let t := a + 23 * 524288
    let lo : Int := 2 ^ (t / 524288).toNat
    if t % 524288 = 0 then lo else clampInt lo (min 8388607 (2 * lo)) (Config.otherExp2 a)

/-- `LOG2FN` (R172). -/
def log2fn (k : KernelChoice) (m : Nat) : Int :=
  match k with
  | .reference => log2Ref m
  | .other => log2Other m

/-- `EXP2FN` (R173). -/
def exp2fn (k : KernelChoice) (a : Int) : Int :=
  match k with
  | .reference => exp2Ref a
  | .other => exp2Other a

/-! ### Sine and cosine -/

/-- `⌊(π/2) * 2^80⌋`. -/
def halfPi80 : Nat := 0x1921fb54442d18469898c

/-- The alternating Taylor sum of the sine at 2^80 scale: `n` further terms, of which the next one is
`term`, with `2j` and `2j + 1` its last two divisors and `x2` the square of the argument. -/
def sinTaylor (x2 : Nat) : Nat → Nat → Nat → Int → Int
  | 0, _, _, sum => sum
  | n + 1, j, term, sum =>
    let next := (term * x2) >>> 80 / ((2 * j + 2) * (2 * j + 3))
    sinTaylor x2 n (j + 1) next (if j % 2 = 0 then sum + term else sum - term)

/-- `⌊sin(2π r / 2^20) * 8388607 + 1/2⌋` for a phase `r ≤ 2^18` of the first quadrant, by fourteen
Taylor terms at 80 fraction bits, kept in the range R254 gives (log entry 4). -/
def sinQuadrant (r : Nat) : Int :=
  let x := (r * halfPi80) >>> 18
  let s := sinTaylor ((x * x) >>> 80) 14 0 x 0
  clampInt 0 8388607 ((2 * s * 8388607 + 2 ^ 80) / 2 ^ 81)

/-- The reference `SINFN` of R254, folded onto the first quadrant. -/
def sinRef (p : Nat) : Int :=
  let r := p % 262144
  match p / 262144 % 4 with
  | 0 => sinQuadrant r
  | 1 => sinQuadrant (262144 - r)
  | 2 => - sinQuadrant r
  | _ => - sinQuadrant (262144 - r)

/-- An open `SINFN` (R254): exact at the quadrant points, and within -8388607 .. 8388607 between. -/
def sinOther (p : Nat) : Int :=
  if p % 262144 = 0 then
    match p / 262144 % 4 with
    | 1 => 8388607
    | 3 => -8388607
    | _ => 0
  else clampInt (-8388607) 8388607 (Config.otherSin p)

/-- `SINFN` (R254) of a 20-bit phase. -/
def sinfn (k : KernelChoice) (p : Nat) : Int :=
  match k with
  | .reference => sinRef p
  | .other => sinOther p

/-- `COSFN` (R254): a quarter turn ahead of `SINFN`. -/
def cosfn (k : KernelChoice) (p : Nat) : Int := sinfn k ((p + 262144) % 1048576)

end Sys2Proof.Machine
end

