-- ==== Sys2Proof/Machine/Alu.lean ====
section
/-! DEFINITION. The fixed-point ALU (R160 to R170). Arithmetic is on unbounded integers and narrows
back to 24 bits only by `sat24` (R9). -/

namespace Sys2Proof.Machine

/-- Clamp-to-range (R160). -/
def sat24 (n : Int) : Word :=
  if n < -8388608 then 0x800000#24
  else if 8388607 < n then 0x7FFFFF#24
  else BitVec.ofInt 24 n

/-- Saturating add (R161). -/
def satadd (a b : Int) : Word := sat24 (a + b)

/-- Saturating subtract (R162). -/
def satsub (a b : Int) : Word := sat24 (a - b)

/-- Saturating absolute value (R163). -/
def abs24 (a : Int) : Word := sat24 (if a < 0 then -a else a)

/-- Reduction of an exact product by `f` fraction bits (R165); division by a power of two rounds
toward minus infinity, as `>>` of R11 does. -/
def rnd (mode : Rounding) (x : Int) (f : Nat) : Int :=
  match mode with
  | .nearest => (x + 2 ^ (f - 1)) / 2 ^ f
  | .floor => x / 2 ^ f

/-- Saturating multiply by a multiplier of `f` fraction bits (R164, R101). -/
def mul (mode : Rounding) (a c : Int) (f : Nat) : Word := sat24 (rnd mode (a * c) f)

end Sys2Proof.Machine
end

