-- ==== Sys2Proof/Syntax.lean ====
section
/-! DEFINITION. The instructions: one constructor per row of spec/opcode_table.json, in the table's
order, over the fields of R91 to R99. The last six are the pseudo-instructions of R136: spellings of
the assembler that encode to a machine instruction's word (log entry 7). `MachineInstr` is the
instructions without them: what words decode to and what programs consist of (R121). -/

namespace Sys2Proof

/-- The implemented registers of R29, by name. The 6-bit addresses are `Reg.addr` in Decode.lean.
The sets listed in R29 and R38 hold 48 registers; the count 45 in their prose is not followed (log
entry 6). -/
inductive Reg where
  | sin0Rate | sin0Range | sin1Rate | sin1Range
  | rmp0Rate | rmp0Range | rmp1Rate | rmp1Range
  | pot0 | pot1 | pot2
  | adcl | adcr | dacl | dacr
  | addrPtr
  /-- `REGk` (R36) -/
  | gen (k : Fin 32)
  deriving DecidableEq, Repr

/-- The oscillator select bit of WLDS, WLDR and JAM (R97, R98): oscillator 0 or 1 of its kind. -/
inductive Osc where
  | zero | one
  deriving DecidableEq, Repr

/-- The oscillator select of CHO (R99): 0 SIN0, 1 SIN1, 2 RMP0, 3 RMP1. -/
inductive Lfo where
  | sine (n : Osc)
  | ramp (n : Osc)
  deriving DecidableEq, Repr

/-- The five condition flags of SKP, bits 31 to 27 (R96). -/
structure SkpCond where
  run : Bool
  zrc : Bool
  zro : Bool
  gez : Bool
  neg : Bool
  deriving DecidableEq, Repr

/-- The six flags of CHO, bits 29 to 24 (R99). -/
structure ChoFlags where
  na : Bool
  rptr2 : Bool
  compa : Bool
  compc : Bool
  reg : Bool
  cos : Bool
  deriving DecidableEq, Repr

/-- The empty condition mask. -/
abbrev SkpCond.empty : SkpCond := ⟨false, false, false, false, false⟩

/-- The empty flag set; COS = 0 is the name SIN of R99. -/
abbrev ChoFlags.empty : ChoFlags := ⟨false, false, false, false, false, false⟩

/-- The instructions of R110, then the pseudo-instructions of R136. Coefficients, offsets and
addresses are the raw fields; Machine/Operands.lean reads them. -/
inductive Instr where
  /-- R221 -/
  | rda (c : BitVec 11) (a : BitVec 16)
  /-- R222 -/
  | rmpa (c : BitVec 11)
  /-- R223 -/
  | wra (c : BitVec 11) (a : BitVec 16)
  /-- R224 -/
  | wrap (c : BitVec 11) (a : BitVec 16)
  /-- R201 -/
  | rdax (r : Reg) (c : BitVec 16)
  /-- R202 -/
  | rdfx (r : Reg) (c : BitVec 16)
  /-- R205 -/
  | wrax (r : Reg) (c : BitVec 16)
  /-- R206 -/
  | wrhx (r : Reg) (c : BitVec 16)
  /-- R207 -/
  | wrlx (r : Reg) (c : BitVec 16)
  /-- R208 -/
  | maxx (r : Reg) (c : BitVec 16)
  /-- R210 -/
  | mulx (r : Reg)
  /-- R184 -/
  | log (c : BitVec 16) (d : BitVec 11)
  /-- R185 -/
  | exp (c : BitVec 16) (d : BitVec 11)
  /-- R180 -/
  | sof (c : BitVec 16) (d : BitVec 11)
  /-- R181 -/
  | and (m : Word)
  /-- R182 -/
  | or (m : Word)
  /-- R183 -/
  | xor (m : Word)
  /-- R236 -/
  | skp (c : SkpCond) (n : BitVec 6)
  /-- R260 -/
  | wlds (n : Osc) (f : BitVec 9) (a : BitVec 15)
  /-- R261 -/
  | wldr (n : Osc) (f : BitVec 16) (a : BitVec 2)
  /-- R262 -/
  | jam (n : Osc)
  /-- R266 -/
  | choRda (c : ChoFlags) (o : Lfo) (a : BitVec 16)
  /-- R267 -/
  | choSof (c : ChoFlags) (o : Lfo) (d : BitVec 16)
  /-- R268 -/
  | choRdal (c : ChoFlags) (o : Lfo)
  /-- R186, `AND 0` -/
  | clr
  /-- R187, `XOR $FFFFFF` -/
  | not
  /-- R209, `MAXX 0, 0` -/
  | absa
  /-- R203, `RDFX reg, 0` -/
  | ldax (r : Reg)
  /-- R239, `SKP 0, 0` -/
  | nop
  /-- R240, `SKP 0, N` -/
  | jmp (n : BitVec 6)
  deriving DecidableEq, Repr

/-- The machine instructions of R110: the decoder's output type, with no constructor for a
pseudo-instruction (R121). -/
inductive MachineInstr where
  /-- R221 -/
  | rda (c : BitVec 11) (a : BitVec 16)
  /-- R222 -/
  | rmpa (c : BitVec 11)
  /-- R223 -/
  | wra (c : BitVec 11) (a : BitVec 16)
  /-- R224 -/
  | wrap (c : BitVec 11) (a : BitVec 16)
  /-- R201 -/
  | rdax (r : Reg) (c : BitVec 16)
  /-- R202 -/
  | rdfx (r : Reg) (c : BitVec 16)
  /-- R205 -/
  | wrax (r : Reg) (c : BitVec 16)
  /-- R206 -/
  | wrhx (r : Reg) (c : BitVec 16)
  /-- R207 -/
  | wrlx (r : Reg) (c : BitVec 16)
  /-- R208 -/
  | maxx (r : Reg) (c : BitVec 16)
  /-- R210 -/
  | mulx (r : Reg)
  /-- R184 -/
  | log (c : BitVec 16) (d : BitVec 11)
  /-- R185 -/
  | exp (c : BitVec 16) (d : BitVec 11)
  /-- R180 -/
  | sof (c : BitVec 16) (d : BitVec 11)
  /-- R181 -/
  | and (m : Word)
  /-- R182 -/
  | or (m : Word)
  /-- R183 -/
  | xor (m : Word)
  /-- R236 -/
  | skp (c : SkpCond) (n : BitVec 6)
  /-- R260 -/
  | wlds (n : Osc) (f : BitVec 9) (a : BitVec 15)
  /-- R261 -/
  | wldr (n : Osc) (f : BitVec 16) (a : BitVec 2)
  /-- R262 -/
  | jam (n : Osc)
  /-- R266 -/
  | choRda (c : ChoFlags) (o : Lfo) (a : BitVec 16)
  /-- R267 -/
  | choSof (c : ChoFlags) (o : Lfo) (d : BitVec 16)
  /-- R268 -/
  | choRdal (c : ChoFlags) (o : Lfo)
  deriving DecidableEq, Repr

end Sys2Proof
end

