-- ==== Sys2Proof/WellFormed.lean ====
section
/-! DEFINITION. The side conditions of R120 on the fields of an instruction: the access set of a
written register (R38, R212) and the flag combinations of CHO (R118). Every other clause of R120 is a
reserved bit or an unimplemented address, which no `Instr` can spell. -/

namespace Sys2Proof

/-- `WRITABLE` of R38: every implemented register but the five input registers. -/
def Reg.writable : Reg → Bool
  | .pot0 | .pot1 | .pot2 | .adcl | .adcr => false
  | _ => true

/-- R118: with a sine oscillator RPTR2 and NA must be 0; with a ramp oscillator COS must be 0. -/
def ChoFlags.allowed (c : ChoFlags) : Lfo → Bool
  | .sine _ => !c.rptr2 && !c.na
  | .ramp _ => !c.cos

/-- R118, for CHO RDAL: COMPC and NA must be 0 in addition. -/
def ChoFlags.allowedRdal (c : ChoFlags) (o : Lfo) : Bool :=
  c.allowed o && !c.compc && !c.na

/-- The instructions that `ValidWord` (R120) admits. -/
def Instr.wellFormed : Instr → Bool
  | .wrax r _ => r.writable
  | .wrhx r _ => r.writable
  | .wrlx r _ => r.writable
  | .choRda c o _ => c.allowed o
  | .choSof c o _ => c.allowed o
  | .choRdal c o => c.allowedRdal o
  | .rda _ _ => true
  | .rmpa _ => true
  | .wra _ _ => true
  | .wrap _ _ => true
  | .rdax _ _ => true
  | .rdfx _ _ => true
  | .maxx _ _ => true
  | .mulx _ => true
  | .log _ _ => true
  | .exp _ _ => true
  | .sof _ _ => true
  | .and _ => true
  | .or _ => true
  | .xor _ => true
  | .skp _ _ => true
  | .wlds _ _ _ => true
  | .wldr _ _ _ => true
  | .jam _ => true
  | .clr => true
  | .not => true
  | .absa => true
  | .ldax _ => true
  | .nop => true
  | .jmp _ => true

end Sys2Proof
end

