-- ==== Sys2Proof/Decode.lean ====
section
/-! DEFINITION. Decoding and encoding of instruction words (R90 to R99, R110, R115 to R121) and the
byte form of an image (R72, R124). The decoder reads every field of R91 once; `validWord` is R120
transcribed clause by clause, kept apart from the decoder so that the two can be held against each
other. -/

namespace Sys2Proof

/-- Why a word, or a byte string, spells no instruction. -/
inductive Reject where
  /-- Fewer than four bytes remain (R124, "truncated binary image"). -/
  | truncated
  /-- Opcodes 0x15 .. 0x1F, opcode 0x12 with `w[31] = 1`, opcode 0x14 with `T = 01` (R116). -/
  | unassigned
  /-- A field marked "must be 0" is not 0, or bit 7 of a JAM word is not 1 (R98, R115). -/
  | reservedField
  /-- The register address is not implemented (R37). -/
  | unimplementedRegister
  /-- A store names an input register (R38). -/
  | readOnlyRegister
  /-- A CHO flag that its oscillator kind or sub-operation excludes (R118). -/
  | excludedFlags
  deriving DecidableEq, Repr

/-! ### Register addresses -/

/-- The 6-bit address of a register (R29). -/
def Reg.addr : Reg → BitVec 6
  | .sin0Rate => 0x00#6
  | .sin0Range => 0x01#6
  | .sin1Rate => 0x02#6
  | .sin1Range => 0x03#6
  | .rmp0Rate => 0x04#6
  | .rmp0Range => 0x05#6
  | .rmp1Rate => 0x06#6
  | .rmp1Range => 0x07#6
  | .pot0 => 0x10#6
  | .pot1 => 0x11#6
  | .pot2 => 0x12#6
  | .adcl => 0x14#6
  | .adcr => 0x15#6
  | .dacl => 0x16#6
  | .dacr => 0x17#6
  | .addrPtr => 0x18#6
  | .gen k => BitVec.ofNat 6 (0x20 + k.val)

/-- The register at a 6-bit address; `none` at the unimplemented addresses of R37. -/
def Reg.ofAddr? (a : BitVec 6) : Option Reg :=
  match a.toNat with
  | 0x00 => some .sin0Rate
  | 0x01 => some .sin0Range
  | 0x02 => some .sin1Rate
  | 0x03 => some .sin1Range
  | 0x04 => some .rmp0Rate
  | 0x05 => some .rmp0Range
  | 0x06 => some .rmp1Rate
  | 0x07 => some .rmp1Range
  | 0x10 => some .pot0
  | 0x11 => some .pot1
  | 0x12 => some .pot2
  | 0x14 => some .adcl
  | 0x15 => some .adcr
  | 0x16 => some .dacl
  | 0x17 => some .dacr
  | 0x18 => some .addrPtr
  | n => if 0x20 ≤ n then some (.gen (Fin.ofNat 32 (n - 0x20))) else none

/-! ### Small fields -/

/-- The oscillator that a 1-bit select names (R97, R98). -/
def Osc.ofBit (b : Bool) : Osc := if b then .one else .zero

/-- The select bit of an oscillator. -/
def Osc.bit : Osc → Bool
  | .zero => false
  | .one => true

/-- Bits 22:21 of a CHO word: bit 22 is the kind, bit 21 the number (R99). -/
def Lfo.ofBits (kind number : Bool) : Lfo :=
  if kind then .ramp (Osc.ofBit number) else .sine (Osc.ofBit number)

/-- Bit 22 of the select of CHO: 0 sine, 1 ramp (R99). -/
def Lfo.kind : Lfo → Bool
  | .sine _ => false
  | .ramp _ => true

/-- Which of the two oscillators of its kind a CHO select names (R99). -/
def Lfo.number : Lfo → Osc
  | .sine n => n
  | .ramp n => n

/-- Bits 31:27 of a SKP word (R96). -/
def SkpCond.ofWord (w : Word32) : SkpCond :=
  { run := w.getLsbD 31, zrc := w.getLsbD 30, zro := w.getLsbD 29, gez := w.getLsbD 28,
    neg := w.getLsbD 27 }

/-- Bits 29:24 of a CHO word (R99). -/
def ChoFlags.ofWord (w : Word32) : ChoFlags :=
  { na := w.getLsbD 29, rptr2 := w.getLsbD 28, compa := w.getLsbD 27, compc := w.getLsbD 26,
    reg := w.getLsbD 25, cos := w.getLsbD 24 }

/-! ### The decoder -/

/-- A reserved field must be 0 (R115). -/
def decodeZero {n : Nat} (field : BitVec n) (i : Except Reject MachineInstr) :
    Except Reject MachineInstr :=
  if field = 0 then i else .error .reservedField

/-- The register operand `w[10:5]` in `READABLE` (R38). -/
def decodeReadable (w : Word32) (k : Reg → MachineInstr) : Except Reject MachineInstr :=
  match Reg.ofAddr? (w.extractLsb' 5 6) with
  | some r => .ok (k r)
  | none => .error .unimplementedRegister

/-- The register operand `w[10:5]` in `WRITABLE` (R38). -/
def decodeWritable (w : Word32) (k : Reg → MachineInstr) : Except Reject MachineInstr :=
  match Reg.ofAddr? (w.extractLsb' 5 6) with
  | some r => if r.writable then .ok (k r) else .error .readOnlyRegister
  | none => .error .unimplementedRegister

/-- Opcode 0x12: bits 31:30 select WLDS, WLDR or nothing (R97, R116). -/
def decodeLoadLfo (w : Word32) : Except Reject MachineInstr :=
  match (w.extractLsb' 30 2).toNat with
  | 0 => .ok (.wlds (Osc.ofBit (w.getLsbD 29)) (w.extractLsb' 20 9) (w.extractLsb' 5 15))
  | 1 => decodeZero (w.extractLsb' 7 6)
      (.ok (.wldr (Osc.ofBit (w.getLsbD 29)) (w.extractLsb' 13 16) (w.extractLsb' 5 2)))
  | _ => .error .unassigned

/-- Opcode 0x13 (R98): `w[31:8] = 0`, `w[7] = 1`, `w[5] = 0`. -/
def decodeJam (w : Word32) : Except Reject MachineInstr :=
  decodeZero (w.extractLsb' 8 24) <|
    decodeZero (w.extractLsb' 5 1) <|
      if w.getLsbD 7 then .ok (.jam (Osc.ofBit (w.getLsbD 6))) else .error .reservedField

/-- Opcode 0x14 (R99, R118): `w[23] = 0` and the sub-operation `T = w[31:30]`. -/
def decodeCho (w : Word32) : Except Reject MachineInstr :=
  let c := ChoFlags.ofWord w
  let o := Lfo.ofBits (w.getLsbD 22) (w.getLsbD 21)
  decodeZero (w.extractLsb' 23 1) <|
    match (w.extractLsb' 30 2).toNat with
    | 0 => if c.allowed o then .ok (.choRda c o (w.extractLsb' 5 16)) else .error .excludedFlags
    | 2 => if c.allowed o then .ok (.choSof c o (w.extractLsb' 5 16)) else .error .excludedFlags
    | 3 => decodeZero (w.extractLsb' 5 16) <|
        if c.allowedRdal o then .ok (.choRdal c o) else .error .excludedFlags
    | _ => .error .unassigned

/-- `Decode` of R120 and R145: the instruction a 32-bit word spells, or why it spells none. -/
def decode (w : Word32) : Except Reject MachineInstr :=
  match (w.extractLsb' 0 5).toNat with
  | 0x00 => .ok (.rda (w.extractLsb' 21 11) (w.extractLsb' 5 16))
  | 0x01 => decodeZero (w.extractLsb' 5 16) (.ok (.rmpa (w.extractLsb' 21 11)))
  | 0x02 => .ok (.wra (w.extractLsb' 21 11) (w.extractLsb' 5 16))
  | 0x03 => .ok (.wrap (w.extractLsb' 21 11) (w.extractLsb' 5 16))
  | 0x04 => decodeZero (w.extractLsb' 11 5) (decodeReadable w (.rdax · (w.extractLsb' 16 16)))
  | 0x05 => decodeZero (w.extractLsb' 11 5) (decodeReadable w (.rdfx · (w.extractLsb' 16 16)))
  | 0x06 => decodeZero (w.extractLsb' 11 5) (decodeWritable w (.wrax · (w.extractLsb' 16 16)))
  | 0x07 => decodeZero (w.extractLsb' 11 5) (decodeWritable w (.wrhx · (w.extractLsb' 16 16)))
  | 0x08 => decodeZero (w.extractLsb' 11 5) (decodeWritable w (.wrlx · (w.extractLsb' 16 16)))
  | 0x09 => decodeZero (w.extractLsb' 11 5) (decodeReadable w (.maxx · (w.extractLsb' 16 16)))
  | 0x0A => decodeZero (w.extractLsb' 11 21) (decodeReadable w .mulx)
  | 0x0B => .ok (.log (w.extractLsb' 16 16) (w.extractLsb' 5 11))
  | 0x0C => .ok (.exp (w.extractLsb' 16 16) (w.extractLsb' 5 11))
  | 0x0D => .ok (.sof (w.extractLsb' 16 16) (w.extractLsb' 5 11))
  | 0x0E => decodeZero (w.extractLsb' 5 3) (.ok (.and (w.extractLsb' 8 24)))
  | 0x0F => decodeZero (w.extractLsb' 5 3) (.ok (.or (w.extractLsb' 8 24)))
  | 0x10 => decodeZero (w.extractLsb' 5 3) (.ok (.xor (w.extractLsb' 8 24)))
  | 0x11 => decodeZero (w.extractLsb' 5 16) (.ok (.skp (SkpCond.ofWord w) (w.extractLsb' 21 6)))
  | 0x12 => decodeLoadLfo w
  | 0x13 => decodeJam w
  | 0x14 => decodeCho w
  | _ => .error .unassigned

/-! ### The validity predicate -/

/-- `a ∈ READABLE` (R38), from the listed ranges. -/
def readableAddr (a : BitVec 6) : Bool :=
  (a.toNat ≤ 0x07) || a == 0x10#6 || a == 0x11#6 || a == 0x12#6 || a == 0x14#6 || a == 0x15#6
    || a == 0x16#6 || a == 0x17#6 || a == 0x18#6 || (0x20 ≤ a.toNat)

/-- `a ∈ WRITABLE` (R38): `READABLE` minus the five input registers. -/
def writableAddr (a : BitVec 6) : Bool :=
  readableAddr a && !(a == 0x10#6 || a == 0x11#6 || a == 0x12#6 || a == 0x14#6 || a == 0x15#6)

/-- `ValidWord` of R120, clause by clause. -/
def validWord (w : Word32) : Bool :=
  let op := (w.extractLsb' 0 5).toNat
  if op = 0x00 ∨ op = 0x02 ∨ op = 0x03 then true
  else if op = 0x01 then w.extractLsb' 5 16 == 0
  else if op = 0x04 ∨ op = 0x05 ∨ op = 0x09 then
    w.extractLsb' 11 5 == 0 && readableAddr (w.extractLsb' 5 6)
  else if op = 0x06 ∨ op = 0x07 ∨ op = 0x08 then
    w.extractLsb' 11 5 == 0 && writableAddr (w.extractLsb' 5 6)
  else if op = 0x0A then w.extractLsb' 11 21 == 0 && readableAddr (w.extractLsb' 5 6)
  else if op = 0x0B ∨ op = 0x0C ∨ op = 0x0D then true
  else if op = 0x0E ∨ op = 0x0F ∨ op = 0x10 then w.extractLsb' 5 3 == 0
  else if op = 0x11 then w.extractLsb' 5 16 == 0
  else if op = 0x12 then
    !w.getLsbD 31 && (!w.getLsbD 30 || w.extractLsb' 7 6 == 0)
  else if op = 0x13 then w.extractLsb' 8 24 == 0 && w.getLsbD 7 && !w.getLsbD 5
  else if op = 0x14 then
    !w.getLsbD 23
      && !(w.extractLsb' 30 2 == 0b01#2)
      && (w.getLsbD 22 || (!w.getLsbD 29 && !w.getLsbD 28))
      && (!w.getLsbD 22 || !w.getLsbD 24)
      && (!(w.extractLsb' 30 2 == 0b11#2)
        || (w.extractLsb' 5 16 == 0 && !w.getLsbD 29 && !w.getLsbD 26))
  else false

/-! ### The encoder -/

/-- A field put into a word with its lowest bit at bit `lo`. -/
def place {n : Nat} (lo : Nat) (x : BitVec n) : Word32 := x.setWidth 32 <<< lo

/-- Bits 31:27 of a SKP word (R96). -/
def SkpCond.place (c : SkpCond) : Word32 :=
  Sys2Proof.place 31 (BitVec.ofBool c.run) ||| Sys2Proof.place 30 (BitVec.ofBool c.zrc)
    ||| Sys2Proof.place 29 (BitVec.ofBool c.zro) ||| Sys2Proof.place 28 (BitVec.ofBool c.gez)
    ||| Sys2Proof.place 27 (BitVec.ofBool c.neg)

/-- Bits 29:24 of a CHO word (R99). -/
def ChoFlags.place (c : ChoFlags) : Word32 :=
  Sys2Proof.place 29 (BitVec.ofBool c.na) ||| Sys2Proof.place 28 (BitVec.ofBool c.rptr2)
    ||| Sys2Proof.place 27 (BitVec.ofBool c.compa) ||| Sys2Proof.place 26 (BitVec.ofBool c.compc)
    ||| Sys2Proof.place 25 (BitVec.ofBool c.reg) ||| Sys2Proof.place 24 (BitVec.ofBool c.cos)

/-- Bits 22:21 of a CHO word (R99). -/
def Lfo.place (o : Lfo) : Word32 :=
  Sys2Proof.place 22 (BitVec.ofBool o.kind) ||| Sys2Proof.place 21 (BitVec.ofBool o.number.bit)

/-- The layout R of R91 with opcode `op`. -/
def encodeR (c : BitVec 16) (r : Reg) (op : BitVec 5) : Word32 :=
  place 16 c ||| place 5 r.addr ||| place 0 op

/-- The layout C of R91: the sub-operation, the flag set, the oscillator, the 16-bit field. -/
def encodeC (t : BitVec 2) (c : ChoFlags) (o : Lfo) (a : BitVec 16) : Word32 :=
  place 30 t ||| c.place ||| o.place ||| place 5 a ||| place 0 0x14#5

/-- The word of an instruction, from the layouts of R91 and the expansions of R136. A bit no field is
placed on is 0, which is what R91 wants of every reserved bit. -/
def encode : Instr → Word32
  | .rda c a => place 21 c ||| place 5 a ||| place 0 0x00#5
  | .rmpa c => place 21 c ||| place 0 0x01#5
  | .wra c a => place 21 c ||| place 5 a ||| place 0 0x02#5
  | .wrap c a => place 21 c ||| place 5 a ||| place 0 0x03#5
  | .rdax r c => encodeR c r 0x04#5
  | .rdfx r c => encodeR c r 0x05#5
  | .wrax r c => encodeR c r 0x06#5
  | .wrhx r c => encodeR c r 0x07#5
  | .wrlx r c => encodeR c r 0x08#5
  | .maxx r c => encodeR c r 0x09#5
  | .mulx r => place 5 r.addr ||| place 0 0x0A#5
  | .log c d => place 16 c ||| place 5 d ||| place 0 0x0B#5
  | .exp c d => place 16 c ||| place 5 d ||| place 0 0x0C#5
  | .sof c d => place 16 c ||| place 5 d ||| place 0 0x0D#5
  | .and m => place 8 m ||| place 0 0x0E#5
  | .or m => place 8 m ||| place 0 0x0F#5
  | .xor m => place 8 m ||| place 0 0x10#5
  | .skp c n => c.place ||| place 21 n ||| place 0 0x11#5
  | .wlds n f a =>
      place 30 0b00#2 ||| place 29 (BitVec.ofBool n.bit) ||| place 20 f ||| place 5 a ||| place 0 0x12#5
  | .wldr n f a =>
      place 30 0b01#2 ||| place 29 (BitVec.ofBool n.bit) ||| place 13 f ||| place 5 a ||| place 0 0x12#5
  | .jam n => place 7 1#1 ||| place 6 (BitVec.ofBool n.bit) ||| place 0 0x13#5
  | .choRda c o a => encodeC 0b00#2 c o a
  | .choSof c o d => encodeC 0b10#2 c o d
  | .choRdal c o => encodeC 0b11#2 c o 0
  | .clr => 0x0000000E#32
  | .not => 0xFFFFFF10#32
  | .absa => 0x00000009#32
  | .ldax r => place 5 r.addr ||| place 0 0x05#5
  | .nop => 0x00000011#32
  | .jmp n => place 21 n ||| place 0 0x11#5

/-- The machine instruction an instruction assembles to: a pseudo-instruction's expansion (R136), a
machine instruction itself. -/
def Instr.machine : Instr → MachineInstr
  | .rda c a => .rda c a
  | .rmpa c => .rmpa c
  | .wra c a => .wra c a
  | .wrap c a => .wrap c a
  | .rdax r c => .rdax r c
  | .rdfx r c => .rdfx r c
  | .wrax r c => .wrax r c
  | .wrhx r c => .wrhx r c
  | .wrlx r c => .wrlx r c
  | .maxx r c => .maxx r c
  | .mulx r => .mulx r
  | .log c d => .log c d
  | .exp c d => .exp c d
  | .sof c d => .sof c d
  | .and m => .and m
  | .or m => .or m
  | .xor m => .xor m
  | .skp c n => .skp c n
  | .wlds n f a => .wlds n f a
  | .wldr n f a => .wldr n f a
  | .jam n => .jam n
  | .choRda c o a => .choRda c o a
  | .choSof c o d => .choSof c o d
  | .choRdal c o => .choRdal c o
  | .clr => .and 0
  | .not => .xor 0xFFFFFF
  | .absa => .maxx .sin0Rate 0
  | .ldax r => .rdfx r 0
  | .nop => .skp .empty 0
  | .jmp n => .skp .empty n

/-- A machine instruction as an instruction. -/
def MachineInstr.instr : MachineInstr → Instr
  | .rda c a => .rda c a
  | .rmpa c => .rmpa c
  | .wra c a => .wra c a
  | .wrap c a => .wrap c a
  | .rdax r c => .rdax r c
  | .rdfx r c => .rdfx r c
  | .wrax r c => .wrax r c
  | .wrhx r c => .wrhx r c
  | .wrlx r c => .wrlx r c
  | .maxx r c => .maxx r c
  | .mulx r => .mulx r
  | .log c d => .log c d
  | .exp c d => .exp c d
  | .sof c d => .sof c d
  | .and m => .and m
  | .or m => .or m
  | .xor m => .xor m
  | .skp c n => .skp c n
  | .wlds n f a => .wlds n f a
  | .wldr n f a => .wldr n f a
  | .jam n => .jam n
  | .choRda c o a => .choRda c o a
  | .choSof c o d => .choSof c o d
  | .choRdal c o => .choRdal c o

/-! ### Bytes -/

/-- The four bytes of an instruction word, most significant first (R72, R124). -/
def wordBytes (w : Word32) : List Byte :=
  [w.extractLsb' 24 8, w.extractLsb' 16 8, w.extractLsb' 8 8, w.extractLsb' 0 8]

/-- The next instruction word of a byte string and the bytes after it (R124). -/
def takeWord : List Byte → Option (Word32 × List Byte)
  | b0 :: b1 :: b2 :: b3 :: rest => some (b0 ++ b1 ++ b2 ++ b3, rest)
  | _ => none

/-- Decoding at the head of a byte string: total, rejecting by name. -/
def decodeBytes (bytes : List Byte) : Except Reject (MachineInstr × List Byte) :=
  match takeWord bytes with
  | none => .error .truncated
  | some (w, rest) =>
    match decode w with
    | .ok i => .ok (i, rest)
    | .error e => .error e

/-- The words of a byte string, `none` when its length is no multiple of 4 (R124, R125 (a)). -/
def bytesWords : List Byte → Option (List Word32)
  | [] => some []
  | b0 :: b1 :: b2 :: b3 :: rest =>
    match bytesWords rest with
    | some ws => some ((b0 ++ b1 ++ b2 ++ b3) :: ws)
    | none => none
  | _ => none

/-- The program whose words an image holds: the same instruction sequence that was encoded (R121,
R321). -/
def decodeProgram (ws : List Word32) : Except Reject (List MachineInstr) := ws.mapM decode

/-- The words of a program (R124). -/
def encodeProgram (p : List MachineInstr) : List Word32 := p.map (fun i => encode i.instr)

/-- The instruction the decoder reads from the low `nbits` bits of `w`, every higher bit 0, the word
laid out as the image stores it (R124). -/
def decodeTableWord (nbits w : Nat) : Option Instr :=
  match decodeBytes (wordBytes (BitVec.ofNat 32 (w % 2 ^ nbits))) with
  | .ok (i, _) => some i.instr
  | .error _ => none

end Sys2Proof
end

