-- ==== Sys2Proof/Machine/State.lean ====
section
/-! DEFINITION. The state of one core (R20), the reasons a step can stop, and the machine right after
reset (R47, first column). Everything here is plain data.

The fields down to `rmpc1` are the spec's own, in the order of R20. The last six are the MODEL's own:
where inside a tick the sequencer stands, the host actions not yet performed, the output ports of
R50, and the open parameters of R7. -/

namespace Sys2Proof.Machine

/-- `MODE` (R21). -/
inductive Mode where
  | idle
  | loaded
  deriving DecidableEq, Repr

/-- Where the sequencer stands. The spec performs a whole tick as one atomic action toward the host
(R140, R152); the model steps through it (log entry 5). -/
inductive Phase where
  /-- Between ticks: the next host action may be performed. -/
  | between
  /-- Inside a tick, in the instruction walk (R142 to R145). -/
  | walk
  deriving DecidableEq, Repr

/-- A sparse memory of `w`-bit words in ONE canonical form: addresses strictly rising, and no entry
equal to what an unlisted address reads as. The block has no byte-addressed memory (R60, R72), so a
cell is a word (log entry 8). The operations are in Machine/Ops.lean. -/
abbrev Memory (w : Nat) := List (Nat × BitVec w)

/-- The register file `REGF` (R29): every implemented register, each a 24-bit word. -/
structure Regs where
  /-- 0x00 -/
  sin0Rate : Word
  /-- 0x01 -/
  sin0Range : Word
  /-- 0x02 -/
  sin1Rate : Word
  /-- 0x03 -/
  sin1Range : Word
  /-- 0x04 -/
  rmp0Rate : Word
  /-- 0x05 -/
  rmp0Range : Word
  /-- 0x06 -/
  rmp1Rate : Word
  /-- 0x07 -/
  rmp1Range : Word
  /-- 0x10 -/
  pot0 : Word
  /-- 0x11 -/
  pot1 : Word
  /-- 0x12 -/
  pot2 : Word
  /-- 0x14 -/
  adcl : Word
  /-- 0x15 -/
  adcr : Word
  /-- 0x16 -/
  dacl : Word
  /-- 0x17 -/
  dacr : Word
  /-- 0x18 -/
  addrPtr : Word
  /-- 0x20 .. 0x3F, `REG0` .. `REG31` (R36) -/
  gen : Vector Word 32
  deriving DecidableEq, Repr

/-- The five words of a tick request (R50, R326). -/
structure TickInput where
  inL : Word
  inR : Word
  pot0 : Word
  pot1 : Word
  pot2 : Word
  deriving DecidableEq, Repr

/-- What the host offers to `Load` (R50, R321): a byte string, or a list of words. -/
inductive Image where
  | bytes (b : List Byte)
  | words (ws : List Word32)
  deriving DecidableEq, Repr

/-- The host actions of R327. -/
inductive HostAction where
  /-- R320 -/
  | reset
  /-- R321 to R324 -/
  | load (img : Image)
  /-- R325 -/
  | unload
  /-- R326 -/
  | tick (i : TickInput)
  /-- R311 -/
  | snapshot
  deriving DecidableEq, Repr

/-- One core instance. -/
structure State where
  /-- R21 -/
  mode : Mode
  /-- `PROG[0..127]` (R22); an unlisted slot holds the pad word. -/
  prog : Memory 32
  /-- `PLEN`, 0 .. 128 (R22) -/
  plen : Nat
  /-- `PC`, a counter of instructions (R23) -/
  pc : BitVec 8
  /-- `ACC` (R24) -/
  acc : Word
  /-- `PACC` (R25) -/
  pacc : Word
  /-- `LR`, the delay-read latch (R26) -/
  lr : Word
  /-- `RUN`, false during the first tick after a load (R27) -/
  run : Bool
  /-- `REGF` (R29 to R38) -/
  regs : Regs
  /-- `DRAM[0..32767]` by physical slot (R39); an unlisted slot holds 0. -/
  dram : Memory 24
  /-- `WP` (R40) -/
  wp : BitVec 15
  /-- `WQ`, (logical address, word) in program order (R41) -/
  wq : List (BitVec 15 × Word)
  /-- `SPH0` (R42) -/
  sph0 : BitVec 20
  /-- `SPH1` (R42) -/
  sph1 : BitVec 20
  /-- `RPH0` (R43) -/
  rph0 : BitVec 26
  /-- `RPH1` (R43) -/
  rph1 : BitVec 26
  /-- `SINV0` (R44) -/
  sinv0 : Word
  /-- `SINV1` (R44) -/
  sinv1 : Word
  /-- `COSV0` (R44) -/
  cosv0 : Word
  /-- `COSV1` (R44) -/
  cosv1 : Word
  /-- `RMPV0` (R44) -/
  rmpv0 : BitVec 22
  /-- `RMPV1` (R44) -/
  rmpv1 : BitVec 22
  /-- `RMPC0` (R44) -/
  rmpc0 : BitVec 2
  /-- `RMPC1` (R44) -/
  rmpc1 : BitVec 2
  /-- MODEL: where the sequencer stands (log entry 5). -/
  phase : Phase
  /-- MODEL: the host actions still to be performed, the next one first (log entry 5). -/
  pending : List HostAction
  /-- Port `out_l` (R50): the left output of the last tick completed (log entry 9). -/
  outL : Word
  /-- Port `out_r` (R50) (log entry 9). -/
  outR : Word
  /-- Port `ok` (R50): the verdict of the last `Load` (log entry 9). -/
  loadOk : Bool
  /-- MODEL: the open parameters of R7, constant through a run (log entry 1). -/
  cfg : Config
  deriving DecidableEq, Repr

/-- Why the machine stops with a fault. The block itself has none (R290). -/
inductive Fault where
  /-- Raised by the fetch, in a state that breaks R46 (a) (`PLEN > 128`), for a program slot that does
  not exist. No run from reset reaches it. Safe: the model stops. -/
  | programSlot (pc : BitVec 8)
  deriving DecidableEq, Repr

/-- Why an instruction has no meaning. No run from reset meets any of them (R22, R145). -/
inductive Refusal where
  /-- Raised by an arm of `exec` whose instruction has no meaning yet; none is left. Safe. -/
  | notModelled (mnemonic : String)
  /-- Raised by the step, in a state that breaks R46 (b), for a fetched word that fails `ValidWord`:
  R145 has the model refuse it. Safe. -/
  | invalidWord (why : Reject)
  /-- Raised by WRAX, WRHX and WRLX for a term that names an input register: no valid word decodes
  to it (R38, R120). Safe. -/
  | readOnlyRegister (r : Reg)
  /-- Raised by the CHO forms for a term with a flag that R118 excludes: no valid word decodes to it.
  Safe. -/
  | excludedFlags
  deriving DecidableEq, Repr

/-- Every implemented register at 0 (R47). -/
def Regs.zero : Regs :=
  { sin0Rate := 0, sin0Range := 0, sin1Rate := 0, sin1Range := 0,
    rmp0Rate := 0, rmp0Range := 0, rmp1Rate := 0, rmp1Range := 0,
    pot0 := 0, pot1 := 0, pot2 := 0, adcl := 0, adcr := 0, dacl := 0, dacr := 0,
    addrPtr := 0, gen := Vector.replicate 32 0 }

/-- The machine right after reset: R47, first column, and R320. The ports hold 0 (log entry 9), no
host action is waiting, and the open parameters have their defaults (log entry 1). -/
def State.reset : State :=
  { mode := .idle, prog := [], plen := 0, pc := 0, acc := 0, pacc := 0, lr := 0, run := false,
    regs := Regs.zero, dram := [], wp := 0, wq := [],
    sph0 := 0, sph1 := 0, rph0 := 0, rph1 := 0,
    sinv0 := 0, sinv1 := 0, cosv0 := 0, cosv1 := 0,
    rmpv0 := 0, rmpv1 := 0, rmpc0 := 0, rmpc1 := 0,
    phase := .between, pending := [], outL := 0, outR := 0, loadOk := false,
    cfg := Config.default }

end Sys2Proof.Machine
end

