-- ==== Sys2Proof/Machine/Operands.lean ====
section
/-! DEFINITION. What an operand field stands for (R63, R92 to R103) and the fields of the registers
that the oscillators and RMPA read (R31, R35). -/

namespace Sys2Proof.Machine

/-- An S1.14 coefficient (R93, R94, R100). -/
def coefS1_14 (c : BitVec 16) : Int := c.toInt

/-- An S1.9 coefficient (R92, R100). -/
def coefS1_9 (c : BitVec 11) : Int := c.toInt

/-- The 11-bit offset of SOF, EXP (S.10) and LOG (S4.6), aligned: `d << 13` (R103). -/
def offset11 (d : BitVec 11) : Int := d.toInt * 2 ^ 13

/-- The 16-bit offset of CHO SOF (S.15), aligned: `d << 8` (R103). -/
def offset16 (d : BitVec 16) : Int := d.toInt * 2 ^ 8

/-- An absolute delay address: the 16-bit field with its top bit dropped (R63). -/
def delayAddr (a : BitVec 16) : BitVec 15 := a.setWidth 15

/-- The delay address in ADDR_PTR, bits 22:8 (R35, R222). -/
def pointerAddr (p : Word) : BitVec 15 := p.extractLsb' 8 15

/-- The delay address of CHO RDA, `(A + off) mod 32768` (R63, R266). -/
def displacedAddr (a : BitVec 16) (off : Int) : BitVec 15 := BitVec.ofInt 15 (a.toNat + off)

/-! ### Fields of the oscillator parameter registers (R31) -/

/-- `Kf`, bits 22:14 of SINn_RATE. -/
def sineRateField (x : Word) : BitVec 9 := x.extractLsb' 14 9

/-- `A`, bits 22:8 of SINn_RANGE. -/
def sineAmpField (x : Word) : BitVec 15 := x.extractLsb' 8 15

/-- `R`, bits 23:8 of RMPn_RATE, signed. -/
def rampRateField (x : Word) : BitVec 16 := x.extractLsb' 8 16

/-- `code`, bits 1:0 of RMPn_RANGE. -/
def rampCodeField (x : Word) : BitVec 2 := x.extractLsb' 0 2

/-- `F << 14`, what WLDS writes to SINn_RATE (R260). -/
def sineRateWord (f : BitVec 9) : Word := f.setWidth 24 <<< 14

/-- `A << 8`, what WLDS writes to SINn_RANGE (R260). -/
def sineAmpWord (a : BitVec 15) : Word := a.setWidth 24 <<< 8

/-- `w[28:13] << 8`, what WLDR writes to RMPn_RATE (R261). -/
def rampRateWord (f : BitVec 16) : Word := f.setWidth 24 <<< 8

/-- `zext(A)`, what WLDR writes to RMPn_RANGE (R261). -/
def rampCodeWord (a : BitVec 2) : Word := a.setWidth 24

/-- SINn_RATE, register 2n (R29). -/
def sineRateReg : Osc → Reg
  | .zero => .sin0Rate
  | .one => .sin1Rate

/-- SINn_RANGE, register 2n + 1 (R29). -/
def sineRangeReg : Osc → Reg
  | .zero => .sin0Range
  | .one => .sin1Range

/-- RMPn_RATE, register 4 + 2n (R29). -/
def rampRateReg : Osc → Reg
  | .zero => .rmp0Rate
  | .one => .rmp1Rate

/-- RMPn_RANGE, register 5 + 2n (R29). -/
def rampRangeReg : Osc → Reg
  | .zero => .rmp0Range
  | .one => .rmp1Range

/-! ### Numbers at the ports -/

/-- `word(x) = sat24(floor(x * 2^23))`, the conversion R50 recommends to the host for an input real. It
is outside the block: the ports carry words. -/
def portWord (x : Rat) : Word := sat24 (x * 8388608).floor

/-- `real(v) = s(v) / 2^23`, the host's reading of an output word (R50, R9). -/
def portReal (v : Word) : Rat := v.toInt / 8388608

end Sys2Proof.Machine
end

