-- ==== Sys2Proof/Machine/Ops.lean ====
section
/-! DEFINITION. The named operations over the memories, the register file and the accumulator-side
registers (R30, R65 to R68, R22).

TAKING AN EXCEPTION, AND RETURNING FROM ONE: the block has no exception, no interrupt, no trap entry,
no trap return and one privilege mode (R290, R296, R298 to R301), so there is no such operation. -/

namespace Sys2Proof.Machine

/-! ### Sparse memories -/

/-- Reading a cell; `d` is what an unlisted address reads as. -/
def Memory.read {w : Nat} (d : BitVec w) : Memory w → Nat → BitVec w
  | [], _ => d
  | (b, x) :: m, a => if b = a then x else Memory.read d m a

/-- Writing a cell, in canonical form: the entry goes to its place, and writing `d` removes it. -/
def Memory.write {w : Nat} (d : BitVec w) : Memory w → Nat → BitVec w → Memory w
  | [], a, v => if v = d then [] else [(a, v)]
  | (b, x) :: m, a, v =>
    if a < b then (if v = d then (b, x) :: m else (a, v) :: (b, x) :: m)
    else if a = b then (if v = d then m else (a, v) :: m)
    else (b, x) :: Memory.write d m a v

/-- The canonical form from address `lo` on: addresses rising and below `bound`, no entry equal to
`d`. -/
def Memory.wfFrom {w : Nat} (d : BitVec w) (bound : Nat) : Nat → Memory w → Bool
  | _, [] => true
  | lo, (a, v) :: m =>
    decide (lo ≤ a) && decide (a < bound) && decide (v ≠ d) && Memory.wfFrom d bound (a + 1) m

/-- The canonical form of a memory of `bound` cells. -/
def Memory.wf {w : Nat} (d : BitVec w) (bound : Nat) (m : Memory w) : Bool :=
  Memory.wfFrom d bound 0 m

/-! ### Program memory (R22, R61) -/

/-- `PROG[i]` (R22). -/
def State.progWord (s : State) (i : Nat) : Word32 := Memory.read padWord s.prog i

/-- The cells of a program whose first word stands in slot `i`: every word but the pad word, which an
unlisted slot holds anyway. -/
def programCells : Nat → List Word32 → Memory 32
  | _, [] => []
  | i, w :: ws => if w = padWord then programCells (i + 1) ws else (i, w) :: programCells (i + 1) ws

/-! ### The register file (R29, R30) -/

/-- `x[i]` (R30). -/
def Regs.read (g : Regs) : Reg → Word
  | .sin0Rate => g.sin0Rate
  | .sin0Range => g.sin0Range
  | .sin1Rate => g.sin1Rate
  | .sin1Range => g.sin1Range
  | .rmp0Rate => g.rmp0Rate
  | .rmp0Range => g.rmp0Range
  | .rmp1Rate => g.rmp1Rate
  | .rmp1Range => g.rmp1Range
  | .pot0 => g.pot0
  | .pot1 => g.pot1
  | .pot2 => g.pot2
  | .adcl => g.adcl
  | .adcr => g.adcr
  | .dacl => g.dacl
  | .dacr => g.dacr
  | .addrPtr => g.addrPtr
  | .gen k => g.gen[k]

/-- `x[i] <- v` (R30): the whole word at once. -/
def Regs.write (g : Regs) (r : Reg) (v : Word) : Regs :=
  match r with
  | .sin0Rate => { g with sin0Rate := v }
  | .sin0Range => { g with sin0Range := v }
  | .sin1Rate => { g with sin1Rate := v }
  | .sin1Range => { g with sin1Range := v }
  | .rmp0Rate => { g with rmp0Rate := v }
  | .rmp0Range => { g with rmp0Range := v }
  | .rmp1Rate => { g with rmp1Rate := v }
  | .rmp1Range => { g with rmp1Range := v }
  | .pot0 => { g with pot0 := v }
  | .pot1 => { g with pot1 := v }
  | .pot2 => { g with pot2 := v }
  | .adcl => { g with adcl := v }
  | .adcr => { g with adcr := v }
  | .dacl => { g with dacl := v }
  | .dacr => { g with dacr := v }
  | .addrPtr => { g with addrPtr := v }
  | .gen k => { g with gen := g.gen.set k v }

/-- The write of the five input registers at the start of a tick, past `WRITABLE` (R32, R33, R141). -/
def Regs.latch (g : Regs) (i : TickInput) : Regs :=
  { g with pot0 := i.pot0, pot1 := i.pot1, pot2 := i.pot2, adcl := i.inL, adcr := i.inR }

/-- `x[r]` of a state. -/
def State.readReg (s : State) (r : Reg) : Word := s.regs.read r

/-- `x[r] <- v` on a state. -/
def State.writeReg (s : State) (r : Reg) (v : Word) : State := { s with regs := s.regs.write r v }

/-- `x[r] <- v`, then `x[q] <- w`: the two parameter registers of an oscillator (R260, R261). -/
def State.writePair (s : State) (r q : Reg) (v w : Word) : State :=
  { s with regs := (s.regs.write r v).write q w }

/-! ### The accumulator-side registers and the program counter -/

/-- `ACC <- v` -/
def State.setAcc (s : State) (v : Word) : State := { s with acc := v }

/-- `LR <- v` -/
def State.setLr (s : State) (v : Word) : State := { s with lr := v }

/-- `pc <- pc + 1` (R143). -/
def State.advance (s : State) : State := { s with pc := s.pc + 1 }

/-- `pc <- pc + 1 + N` (R143, R236). -/
def State.skip (s : State) (n : BitVec 6) : State := { s with pc := s.pc + 1 + n.setWidth 8 }

/-! ### Delay memory (R65 to R68) -/

/-- `PHYS(a) = (WP - a) mod 32768` (R65). -/
def physSlot (wp a : BitVec 15) : Nat := (wp - a).toNat

/-- `DRAM[i]`, by physical slot (R39). -/
def State.dramSlot (s : State) (i : Nat) : Word := Memory.read 0 s.dram i

/-- `MemRead(a, 1)` (R66): the word at a logical address as of the start of the tick. -/
def State.memRead (s : State) (a : BitVec 15) : Word := s.dramSlot (physSlot s.wp a)

/-- `MemWrite(a, 1, v)` (R67): the write is scheduled; the memory itself does not change. -/
def State.memWrite (s : State) (a : BitVec 15) (v : Word) : State := { s with wq := s.wq ++ [(a, v)] }

/-- One scheduled write applied, with the write pointer of its tick (R68 step 1). -/
def commitOne (wp : BitVec 15) (m : Memory 24) (e : BitVec 15 × Word) : Memory 24 :=
  Memory.write 0 m (physSlot wp e.1) e.2

/-- The scheduled writes applied in program order (R68 step 1). -/
def commitWrites (wp : BitVec 15) (wq : List (BitVec 15 × Word)) (m : Memory 24) : Memory 24 :=
  wq.foldl (commitOne wp) m

/-! ### Oscillator phases (R42, R43) -/

/-- `SPHn <- v` -/
def State.setSph (s : State) (n : Osc) (v : BitVec 20) : State :=
  match n with
  | .zero => { s with sph0 := v }
  | .one => { s with sph1 := v }

/-- `RPHn <- v` -/
def State.setRph (s : State) (n : Osc) (v : BitVec 26) : State :=
  match n with
  | .zero => { s with rph0 := v }
  | .one => { s with rph1 := v }

/-! ### Shapes shared by several instructions -/

/-- The read shape of RDA, RMPA and CHO RDA: read the delay memory, latch the word in LR, accumulate
its product (R221, R222, R266). -/
def State.readAccumulate (s : State) (a : BitVec 15) (c : Int) (f : Nat) : State :=
  let v := s.memRead a
  (s.setLr v).setAcc (satadd s.acc.toInt (mul s.cfg.rnd v.toInt c f).toInt)

/-- The scale-and-offset shape of SOF, LOG, EXP and CHO SOF: `ACC <- satadd(mul(x, c, f), d)`
(R166). -/
def State.scaleOffset (s : State) (x c : Int) (f : Nat) (d : Int) : State :=
  s.setAcc (satadd (mul s.cfg.rnd x c f).toInt d)

/-- The filter shape of RDFX: `t <- satsub(ACC, x)`, `ACC <- satadd(mul(t, c, 14), x)` (R202). -/
def State.filterStep (s : State) (x : Word) (c : Int) : State :=
  s.setAcc (satadd (mul s.cfg.rnd (satsub s.acc.toInt x.toInt).toInt c 14).toInt x.toInt)

/-- The shape of MAXX: the larger of the magnitudes of the product and of ACC (R208). -/
def State.maxMagnitude (s : State) (x : Word) (c : Int) : State :=
  let p := abs24 (mul s.cfg.rnd x.toInt c 14).toInt
  let q := abs24 s.acc.toInt
  s.setAcc (if p.toInt < q.toInt then q else p)

/-- A store to a register of `WRITABLE`; a term that names an input register is refused, as no valid
word decodes to it (R38). -/
def storeThen (s : State) (r : Reg) (next : State) : Host.Outcome State Fault Refusal :=
  if r.writable then .next (next.writeReg r s.acc).advance else .refused (.readOnlyRegister r)

end Sys2Proof.Machine
end

