-- ==== Sys2Proof/Machine/Accumulator.lean ====
section
/-! DEFINITION. The accumulator instructions SOF, AND, OR, XOR, LOG, EXP and the spellings CLR, NOT
(R180 to R188). -/

namespace Sys2Proof.Machine

/-- LOG c, d (R184). -/
def execLog (c : BitVec 16) (d : BitVec 11) (s : State) : Host.Outcome State Fault Refusal :=
  let l := log2fn s.cfg.logExp (abs24 s.acc.toInt).toNat
  .next (s.scaleOffset l (coefS1_14 c) 14 (offset11 d)).advance

/-- EXP c, d (R185). -/
def execExp (c : BitVec 16) (d : BitVec 11) (s : State) : Host.Outcome State Fault Refusal :=
  let e := exp2fn s.cfg.logExp s.acc.toInt
  .next (s.scaleOffset e (coefS1_14 c) 14 (offset11 d)).advance

/-- SOF c, d (R180). -/
def execSof (c : BitVec 16) (d : BitVec 11) (s : State) : Host.Outcome State Fault Refusal :=
  .next (s.scaleOffset s.acc.toInt (coefS1_14 c) 14 (offset11 d)).advance

/-- AND m (R181). -/
def execAnd (m : Word) (s : State) : Host.Outcome State Fault Refusal :=
  .next (s.setAcc (s.acc &&& m)).advance

/-- OR m (R182). -/
def execOr (m : Word) (s : State) : Host.Outcome State Fault Refusal :=
  .next (s.setAcc (s.acc ||| m)).advance

/-- XOR m (R183). -/
def execXor (m : Word) (s : State) : Host.Outcome State Fault Refusal :=
  .next (s.setAcc (s.acc ^^^ m)).advance

/-- CLR, the spelling of `AND 0` (R186). -/
def execClr (s : State) : Host.Outcome State Fault Refusal :=
  .next (s.setAcc (s.acc &&& 0x000000#24)).advance

/-- NOT, the spelling of `XOR $FFFFFF` (R187). -/
def execNot (s : State) : Host.Outcome State Fault Refusal :=
  .next (s.setAcc (s.acc ^^^ 0xFFFFFF#24)).advance

end Sys2Proof.Machine
end

