-- ==== Sys2Proof/Machine/Delay.lean ====
section
/-! DEFINITION. The delay-memory instructions RDA, RMPA, WRA, WRAP (R221 to R226). -/

namespace Sys2Proof.Machine

/-- RDA addr, c (R221). -/
def execRda (c : BitVec 11) (a : BitVec 16) (s : State) : Host.Outcome State Fault Refusal :=
  .next (s.readAccumulate (delayAddr a) (coefS1_9 c) 9).advance

/-- RMPA c (R222): the address is in ADDR_PTR. -/
def execRmpa (c : BitVec 11) (s : State) : Host.Outcome State Fault Refusal :=
  .next (s.readAccumulate (pointerAddr (s.readReg .addrPtr)) (coefS1_9 c) 9).advance

/-- WRA addr, c (R223). -/
def execWra (c : BitVec 11) (a : BitVec 16) (s : State) : Host.Outcome State Fault Refusal :=
  .next ((s.memWrite (delayAddr a) s.acc).setAcc
    (mul s.cfg.rnd s.acc.toInt (coefS1_9 c) 9)).advance

/-- WRAP addr, c (R224). -/
def execWrap (c : BitVec 11) (a : BitVec 16) (s : State) : Host.Outcome State Fault Refusal :=
  .next ((s.memWrite (delayAddr a) s.acc).scaleOffset s.acc.toInt (coefS1_9 c) 9 s.lr.toInt).advance

end Sys2Proof.Machine
end

