-- ==== Sys2Proof/Machine/Oscillator.lean ====
section
/-! DEFINITION. The oscillator state machine (R250 to R257) and the selector of CHO (R264). -/

namespace Sys2Proof.Machine

/-- Sine advance (R251): `SPHn <- (SPHn + Kf) mod 2^20`. -/
def sineAdvance (phase : BitVec 20) (rate : Word) : BitVec 20 :=
  phase + (sineRateField rate).setWidth 20

/-- A sine output (R252): the kernel value times the amplitude, floored by 15 bits. -/
def sineValue (kernel : Int) (range : Word) : Word :=
  BitVec.ofInt 24 (kernel * (sineAmpField range).toNat / 2 ^ 15)

/-- Ramp advance (R256): `RPHn <- (RPHn - R) mod 2^(26 - code)`. -/
def rampAdvance (phase : BitVec 26) (rate range : Word) : BitVec 26 :=
  BitVec.ofInt 26
    (((phase.toNat : Int) - (rampRateField rate).toInt) % 2 ^ (26 - (rampCodeField range).toNat))

/-- The ramp output (R257): `RPHn >> 4`. -/
def rampValue (phase : BitVec 26) : BitVec 22 := phase.extractLsb' 4 22

/-- The phases advanced once (R251, R256). -/
def State.advancePhases (s : State) : State :=
  { s with
    sph0 := sineAdvance s.sph0 s.regs.sin0Rate
    sph1 := sineAdvance s.sph1 s.regs.sin1Rate
    rph0 := rampAdvance s.rph0 s.regs.rmp0Rate s.regs.rmp0Range
    rph1 := rampAdvance s.rph1 s.regs.rmp1Rate s.regs.rmp1Range }

/-- The output latch computed from the phases (R252, R257). -/
def State.latchOutputs (s : State) : State :=
  { s with
    sinv0 := sineValue (sinfn s.cfg.sinCos s.sph0.toNat) s.regs.sin0Range
    cosv0 := sineValue (cosfn s.cfg.sinCos s.sph0.toNat) s.regs.sin0Range
    sinv1 := sineValue (sinfn s.cfg.sinCos s.sph1.toNat) s.regs.sin1Range
    cosv1 := sineValue (cosfn s.cfg.sinCos s.sph1.toNat) s.regs.sin1Range
    rmpv0 := rampValue s.rph0
    rmpc0 := rampCodeField s.regs.rmp0Range
    rmpv1 := rampValue s.rph1
    rmpc1 := rampCodeField s.regs.rmp1Range }

/-- The one transition of the oscillators, taken at step 2 of a tick (R146, R250). -/
def State.advanceOscillators (s : State) : State := s.advancePhases.latchOutputs

/-! ### The selector of CHO -/

/-- What `LfoSel` computes (R264): the oscillator value, the integer offset in samples, and the S.23
coefficient. -/
structure LfoSel where
  p : Int
  off : Int
  coef : Int
  deriving DecidableEq, Repr

/-- COMPC: complement the coefficient (R264). -/
def compcCoef (c : ChoFlags) (coef : Int) : Int := if c.compc then 0x7FFFFF - coef else coef

/-- `SINVn` or `COSVn` (R264). -/
def State.sineLatch (s : State) (n : Osc) (cos : Bool) : Word :=
  match n, cos with
  | .zero, false => s.sinv0
  | .zero, true => s.cosv0
  | .one, false => s.sinv1
  | .one, true => s.cosv1

/-- `RMPVn` (R264). -/
def State.rampLatch (s : State) : Osc → BitVec 22
  | .zero => s.rmpv0
  | .one => s.rmpv1

/-- `RMPCn` (R264). -/
def State.rampCode (s : State) : Osc → BitVec 2
  | .zero => s.rmpc0
  | .one => s.rmpc1

/-- `LfoSel` on a sine oscillator (R264). -/
def selectSine (c : ChoFlags) (v : Word) : LfoSel :=
  let p := if c.compa then -v.toInt else v.toInt
  { p := p
    off := p / 512
    coef := compcCoef c (p % 512 * 2 ^ 14) }

/-- `LfoSel` on a ramp oscillator of value `v` and range code `code` (R264). A ramp at 0 has the offset
2048 under RPTR2 and 4095 under COMPA, by R264's formulas and against the prose of R329 (DEDUCED, log
entry 16). -/
def selectRamp (c : ChoFlags) (v : BitVec 22) (code : BitVec 2) : LfoSel :=
  let m : Int := 2 ^ (22 - code.toNat)
  let q : Int := if c.rptr2 then (v.toNat + m / 2) % m else v.toNat
  let p := if c.compa then m - 1 - q else q
  if c.na then
    let t := if q < m / 2 then q else m - 1 - q
    { p := p, off := 0, coef := compcCoef c (t * 2 ^ (2 + code.toNat)) }
  else
    { p := p, off := p / 1024, coef := compcCoef c (p % 1024 * 2 ^ 13) }

/-- `LfoSel(N, C)` (R264), from the latch of this tick. The flag REG has no effect (R265). -/
def lfoSelect (s : State) (c : ChoFlags) : Lfo → LfoSel
  | .sine n => selectSine c (s.sineLatch n c.cos)
  | .ramp n => selectRamp c (s.rampLatch n) (s.rampCode n)

end Sys2Proof.Machine
end

