-- ==== Sys2Proof/Machine/Lfo.lean ====
section
/-! DEFINITION. The oscillator instructions WLDS, WLDR, JAM, CHO RDA, CHO SOF, CHO RDAL (R260 to
R268). -/

namespace Sys2Proof.Machine

/-- WLDS sin, f, a (R260): both parameter registers, and the phase back to 0. -/
def execWlds (n : Osc) (f : BitVec 9) (a : BitVec 15) (s : State) :
    Host.Outcome State Fault Refusal :=
  .next ((s.writePair (sineRateReg n) (sineRangeReg n) (sineRateWord f) (sineAmpWord a)).setSph n
    0).advance

/-- WLDR rmp, f, amp (R261): both parameter registers; the phase stays. -/
def execWldr (n : Osc) (f : BitVec 16) (a : BitVec 2) (s : State) :
    Host.Outcome State Fault Refusal :=
  .next (s.writePair (rampRateReg n) (rampRangeReg n) (rampRateWord f) (rampCodeWord a)).advance

/-- JAM rmp (R262). -/
def execJam (n : Osc) (s : State) : Host.Outcome State Fault Refusal :=
  .next (s.setRph n 0).advance

/-- CHO RDA, lfo, flags, addr (R266). A term with a flag that R118 excludes is refused: no valid word
decodes to it, and the selector never sees it (R264). -/
def execChoRda (c : ChoFlags) (o : Lfo) (a : BitVec 16) (s : State) :
    Host.Outcome State Fault Refusal :=
  if c.allowed o then
    let sel := lfoSelect s c o
    .next (s.readAccumulate (displacedAddr a sel.off) sel.coef 23).advance
  else .refused .excludedFlags

/-- CHO SOF, lfo, flags, d (R267). Excluded flags: as for CHO RDA. -/
def execChoSof (c : ChoFlags) (o : Lfo) (d : BitVec 16) (s : State) :
    Host.Outcome State Fault Refusal :=
  if c.allowed o then
    .next (s.scaleOffset s.acc.toInt (lfoSelect s c o).coef 23 (offset16 d)).advance
  else .refused .excludedFlags

/-- CHO RDAL, lfo, flags (R268): the oscillator value replaces ACC. Excluded flags: as for CHO RDA. -/
def execChoRdal (c : ChoFlags) (o : Lfo) (s : State) : Host.Outcome State Fault Refusal :=
  if c.allowedRdal o then .next (s.setAcc (BitVec.ofInt 24 (lfoSelect s c o).p)).advance
  else .refused .excludedFlags

end Sys2Proof.Machine
end

