-- ==== Sys2Proof/Machine/Register.lean ====
section
/-! DEFINITION. The register instructions RDAX, RDFX, WRAX, WRHX, WRLX, MAXX, MULX and the spellings
LDAX, ABSA (R201 to R212). PACC is the final ACC of the previous tick (R211). -/

namespace Sys2Proof.Machine

/-- RDAX reg, c (R201). -/
def execRdax (r : Reg) (c : BitVec 16) (s : State) : Host.Outcome State Fault Refusal :=
  .next (s.setAcc (satadd s.acc.toInt
    (mul s.cfg.rnd (s.readReg r).toInt (coefS1_14 c) 14).toInt)).advance

/-- RDFX reg, c (R202). -/
def execRdfx (r : Reg) (c : BitVec 16) (s : State) : Host.Outcome State Fault Refusal :=
  .next (s.filterStep (s.readReg r) (coefS1_14 c)).advance

/-- WRAX reg, c (R205). -/
def execWrax (r : Reg) (c : BitVec 16) (s : State) : Host.Outcome State Fault Refusal :=
  storeThen s r (s.setAcc (mul s.cfg.rnd s.acc.toInt (coefS1_14 c) 14))

/-- WRHX reg, c (R206). -/
def execWrhx (r : Reg) (c : BitVec 16) (s : State) : Host.Outcome State Fault Refusal :=
  storeThen s r (s.scaleOffset s.acc.toInt (coefS1_14 c) 14 s.pacc.toInt)

/-- WRLX reg, c (R207): the filter shape around PACC, `t <- satsub(PACC, old)`. -/
def execWrlx (r : Reg) (c : BitVec 16) (s : State) : Host.Outcome State Fault Refusal :=
  storeThen s r
    (s.scaleOffset (satsub s.pacc.toInt s.acc.toInt).toInt (coefS1_14 c) 14 s.pacc.toInt)

/-- MAXX reg, c (R208). -/
def execMaxx (r : Reg) (c : BitVec 16) (s : State) : Host.Outcome State Fault Refusal :=
  .next (s.maxMagnitude (s.readReg r) (coefS1_14 c)).advance

/-- MULX reg (R210). -/
def execMulx (r : Reg) (s : State) : Host.Outcome State Fault Refusal :=
  .next (s.setAcc (mul s.cfg.rnd s.acc.toInt (s.readReg r).toInt 23)).advance

/-- LDAX reg, the spelling of `RDFX reg, 0` (R203). -/
def execLdax (r : Reg) (s : State) : Host.Outcome State Fault Refusal :=
  .next (s.filterStep (s.readReg r) (coefS1_14 0)).advance

/-- ABSA, the spelling of `MAXX 0, 0` (R209). -/
def execAbsa (s : State) : Host.Outcome State Fault Refusal :=
  .next (s.maxMagnitude (s.readReg .sin0Rate) (coefS1_14 0)).advance

end Sys2Proof.Machine
end

