-- ==== Sys2Proof/Machine/Flags.lean ====
section
/-! DEFINITION. The conditions of SKP (R236, R238). There is no flag register: the conditions are
computed from ACC, PACC and RUN when the SKP executes, and no instruction sets one (R28). -/

namespace Sys2Proof.Machine

/-- RUN: this is not the first tick since the load (R238). -/
def condRun (s : State) : Bool := s.run

/-- ZRC: the sign bits of ACC and PACC differ (R238). -/
def condZrc (s : State) : Bool := s.acc.msb != s.pacc.msb

/-- ZRO: ACC is 0 (R238). -/
def condZro (s : State) : Bool := s.acc == 0x000000#24

/-- GEZ: the sign bit of ACC is 0 (R238). -/
def condGez (s : State) : Bool := !s.acc.msb

/-- NEG: the sign bit of ACC is 1 (R238). -/
def condNeg (s : State) : Bool := s.acc.msb

/-- Whether a skip is taken: every selected condition holds (R236). -/
def skipTaken (c : SkpCond) (s : State) : Bool :=
  (!c.run || condRun s) && (!c.zrc || condZrc s) && (!c.zro || condZro s)
    && (!c.gez || condGez s) && (!c.neg || condNeg s)

end Sys2Proof.Machine
end

