-- ==== Sys2Proof/Machine/Skip.lean ====
section
/-! DEFINITION. The conditional forward skip SKP and its spellings NOP, JMP (R236 to R241). -/

namespace Sys2Proof.Machine

/-- The program counter moved by a SKP, taken or not (R236). -/
def State.skipIf (s : State) (taken : Bool) (n : BitVec 6) : State :=
  if taken then s.skip n else s.advance

/-- SKP cond, N (R236). -/
def execSkp (c : SkpCond) (n : BitVec 6) (s : State) : Host.Outcome State Fault Refusal :=
  .next (s.skipIf (skipTaken c s) n)

/-- NOP, the spelling of `SKP 0, 0` (R239). -/
def execNop (s : State) : Host.Outcome State Fault Refusal :=
  .next (s.skipIf (skipTaken .empty s) 0)

/-- JMP target, the spelling of `SKP 0, N` (R240). -/
def execJmp (n : BitVec 6) (s : State) : Host.Outcome State Fault Refusal :=
  .next (s.skipIf (skipTaken .empty s) n)

end Sys2Proof.Machine
end

