-- ==== Sys2Proof/Machine/Dispatch.lean ====
section
/-! DEFINITION. The dispatch: one arm per instruction (R145). -/

namespace Sys2Proof.Machine

def exec (i : Instr) (s : State) : Host.Outcome State Fault Refusal :=
  match i with
  | .rda c a => Sys2Proof.Machine.execRda c a s
  | .rmpa c => Sys2Proof.Machine.execRmpa c s
  | .wra c a => Sys2Proof.Machine.execWra c a s
  | .wrap c a => Sys2Proof.Machine.execWrap c a s
  | .rdax r c => Sys2Proof.Machine.execRdax r c s
  | .rdfx r c => Sys2Proof.Machine.execRdfx r c s
  | .wrax r c => Sys2Proof.Machine.execWrax r c s
  | .wrhx r c => Sys2Proof.Machine.execWrhx r c s
  | .wrlx r c => Sys2Proof.Machine.execWrlx r c s
  | .maxx r c => Sys2Proof.Machine.execMaxx r c s
  | .mulx r => Sys2Proof.Machine.execMulx r s
  | .log c d => Sys2Proof.Machine.execLog c d s
  | .exp c d => Sys2Proof.Machine.execExp c d s
  | .sof c d => Sys2Proof.Machine.execSof c d s
  | .and m => Sys2Proof.Machine.execAnd m s
  | .or m => Sys2Proof.Machine.execOr m s
  | .xor m => Sys2Proof.Machine.execXor m s
  | .skp c n => Sys2Proof.Machine.execSkp c n s
  | .wlds n f a => Sys2Proof.Machine.execWlds n f a s
  | .wldr n f a => Sys2Proof.Machine.execWldr n f a s
  | .jam n => Sys2Proof.Machine.execJam n s
  | .choRda c o a => Sys2Proof.Machine.execChoRda c o a s
  | .choSof c o d => Sys2Proof.Machine.execChoSof c o d s
  | .choRdal c o => Sys2Proof.Machine.execChoRdal c o s
  -- the spellings of R136
  | .clr => Sys2Proof.Machine.execClr s
  | .not => Sys2Proof.Machine.execNot s
  | .absa => Sys2Proof.Machine.execAbsa s
  | .ldax r => Sys2Proof.Machine.execLdax r s
  | .nop => Sys2Proof.Machine.execNop s
  | .jmp n => Sys2Proof.Machine.execJmp n s

end Sys2Proof.Machine
end

