-- ==== Sys2Proof/Machine/HostActions.lean ====
section
/-! DEFINITION. The host actions (R140, R141, R320 to R330, R311), the two ends of a tick (R141,
R142, R146, R150), and the fetch (R144). -/

namespace Sys2Proof.Machine

/-! ### Images -/

/-- The words of an image; `none` when a byte string is truncated (R124, R322 (a)). -/
def Image.words? : Image → Option (List Word32)
  | .words ws => some ws
  | .bytes b => bytesWords b

/-- The three checks of `Load` (R125, R322): the words of an acceptable image. -/
def acceptImage (img : Image) : Option (List Word32) :=
  match img.words? with
  | none => none
  | some ws => if ws.length ≤ Config.nInstr ∧ ws.all validWord then some ws else none

/-! ### Reset, Load, Unload, Snapshot -/

/-- Every piece of state of R20 at its value after `Reset` (R47, R320). The ports hold what the last
tick or load put there (R50), and the model's own fields stay (log entry 9). -/
def State.cleared (s : State) : State :=
  { State.reset with
    pending := s.pending, outL := s.outL, outR := s.outR, loadOk := s.loadOk, cfg := s.cfg }

/-- `Load(img)` (R321 to R324): all or nothing. -/
def State.load (s : State) (img : Image) : State :=
  match acceptImage img with
  | none => { s with loadOk := false }
  | some ws =>
    { s.cleared with
      mode := .loaded, prog := programCells 0 ws, plen := ws.length, loadOk := true }

/-- What `Snapshot` presents (R311): the state of R20 but for `WQ`, which is empty between ticks, and
`PC`, which is not observable. A word of DRAM is given on request, by `State.dramSlot`. -/
structure Snapshot where
  mode : Mode
  plen : Nat
  /-- `PROG[0 .. PLEN-1]` -/
  prog : List Word32
  acc : Word
  pacc : Word
  lr : Word
  run : Bool
  regs : Regs
  wp : BitVec 15
  sph0 : BitVec 20
  sph1 : BitVec 20
  rph0 : BitVec 26
  rph1 : BitVec 26
  sinv0 : Word
  sinv1 : Word
  cosv0 : Word
  cosv1 : Word
  rmpv0 : BitVec 22
  rmpv1 : BitVec 22
  rmpc0 : BitVec 2
  rmpc1 : BitVec 2
  deriving DecidableEq, Repr

/-- The read-only debug view (R311). -/
def State.snapshot (s : State) : Snapshot :=
  { mode := s.mode, plen := s.plen, prog := (List.range s.plen).map s.progWord,
    acc := s.acc, pacc := s.pacc, lr := s.lr, run := s.run, regs := s.regs, wp := s.wp,
    sph0 := s.sph0, sph1 := s.sph1, rph0 := s.rph0, rph1 := s.rph1,
    sinv0 := s.sinv0, sinv1 := s.sinv1, cosv0 := s.cosv0, cosv1 := s.cosv1,
    rmpv0 := s.rmpv0, rmpv1 := s.rmpv1, rmpc0 := s.rmpc0, rmpc1 := s.rmpc1 }

/-! ### The tick -/

/-- Step 1 (R141): the five input words, latched unchanged. -/
def State.latchInputs (s : State) (i : TickInput) : State := { s with regs := s.regs.latch i }

/-- The start of the instruction walk (R142). -/
def State.startWalk (s : State) : State := { s with pc := 0, wq := [], phase := .walk }

/-- The start of a tick on a Loaded core: steps 1 and 2, then the walk begins (R140, R141, R146,
R142). -/
def State.beginTick (s : State) (i : TickInput) : State :=
  (s.latchInputs i).advanceOscillators.startWalk

/-- Step 5 (R150, R68): the commit. -/
def State.commit (s : State) : State :=
  { s with
    dram := commitWrites s.wp s.wq s.dram
    wq := []
    wp := s.wp + 1
    pacc := s.acc
    run := true
    outL := s.readReg .dacl
    outR := s.readReg .dacr
    phase := .between }

/-- A tick in Idle (R140): the outputs are `IDLE_OUT`, and no state changes. -/
def State.idleTick (s : State) (i : TickInput) : State :=
  match s.cfg.idleOut with
  | .zero => { s with outL := 0, outR := 0 }
  | .passThrough => { s with outL := i.inL, outR := i.inR }

/-- One host action performed between ticks (R327); a tick on a Loaded core only begins here. -/
def State.perform (s : State) : HostAction → State
  | .reset => s.cleared
  | .load img => s.load img
  | .unload => s.cleared
  | .tick i =>
    match s.mode with
    | .idle => s.idleTick i
    | .loaded => s.beginTick i
  | .snapshot => s

/-- Between ticks: the next host action, or nothing at all where none is waiting (R51, R305, R326). -/
def State.hostStep (s : State) : State :=
  match s.pending with
  | [] => s
  | a :: rest => { s with pending := rest }.perform a

/-! ### Fetch -/

/-- What the walk finds at `PC` (R144). -/
inductive Fetched where
  /-- `PC >= PLEN`: the walk is over. -/
  | walkOver
  /-- `PC` names no slot; only in a state that breaks R46 (a). -/
  | noSlot
  /-- The word in slot `PC`. -/
  | word (w : Word32)
  deriving DecidableEq, Repr

/-- Fetch and termination of the walk (R144). -/
def State.fetch (s : State) : Fetched :=
  if s.plen ≤ s.pc.toNat then .walkOver
  else if Config.nInstr ≤ s.pc.toNat then .noSlot
  else .word (s.progWord s.pc.toNat)

end Sys2Proof.Machine
end

