-- ==== Sys2Proof/Machine/Step.lean ====
section
/-! DEFINITION. One step of the machine: between ticks, the next host action; inside a tick, one
instruction of the walk, or the commit that ends it (R5, R140 to R152; log entry 5). -/

namespace Sys2Proof.Machine

/-- One step. -/
def step (s : State) : Host.Outcome State Fault Refusal :=
  match s.phase with
  | .between => .next s.hostStep
  | .walk =>
    match s.fetch with
    | .walkOver => .next s.commit
    | .noSlot => .fault (.programSlot s.pc)
    | .word w =>
      match decode w with
      | .ok i => exec i.instr s
      | .error e => .refused (.invalidWord e)

/-- `s` inside a tick, with the word of the low `nbits` bits of `w` in the slot the walk fetches next
(log entry 10): slot `PC`, or slot 0 where `PC` names no slot. The program is at least long enough to
reach that slot. -/
def State.withFetchWord (s : State) (nbits w : Nat) : State :=
  let slot := if s.pc.toNat < Config.nInstr then s.pc else 0
  { s with
    mode := .loaded
    phase := .walk
    pc := slot
    plen := max s.plen (slot.toNat + 1)
    prog := Memory.write padWord s.prog slot.toNat (BitVec.ofNat 32 (w % 2 ^ nbits)) }

end Sys2Proof.Machine
end

