-- ==== Sys2Proof/Machine/Assembler.lean ====
section
/-! DEFINITION. The SPN assembler (R126 to R139, R292): source text to an acceptable image, or the
class of an error. It is host side, not hardware: the block only ever sees words. Only the verdict
reaches the block (R138), so the first error found is answered and the diagnostics of R4 (b) are left
out. Text is a list of characters. -/

namespace Sys2Proof.Machine

/-- The error classes of R138 and R292 that an assembler of this syntax can meet. -/
inductive AsmError where
  /-- LX: an unrecognized token. -/
  | lexical
  /-- A line that is no label, directive or statement of R126 and R135 (log entry 12). -/
  | malformed
  /-- SE1 -/
  | undefinedSymbol
  /-- SE2 -/
  | outOfRange
  /-- SE3 -/
  | duplicateLabel
  /-- SE4 -/
  | programTooLong
  /-- SE5 -/
  | skipTarget
  deriving DecidableEq, Repr

/-- An identifier, in upper case: every name is case-insensitive (R127). -/
abbrev Name := List Char

/-- The value of an operand (R129, R130): an integer or a real. -/
inductive Value where
  | int (n : Int)
  | real (x : Rat)
  deriving DecidableEq, Repr

/-! ### Lexer (R126, R127, R129) -/

inductive Token where
  | ident (n : Name)
  | num (v : Value)
  | comma
  | colon
  | plus
  | minus
  | bar
  deriving DecidableEq, Repr

def isIdentStart (c : Char) : Bool := c.isAlpha || c == '_'

def isIdentChar (c : Char) : Bool := c.isAlpha || c.isDigit || c == '_'

/-- The value of a digit, of either case, in a base up to 16. -/
def digitValue (base : Nat) (c : Char) : Option Nat :=
  let v := if c.isDigit then c.toNat - 48 else if c.isAlpha then c.toUpper.toNat - 55 else base
  if v < base then some v else none

/-- A numeral in a base; `none` for the empty one and for a foreign character. -/
def numeral (base : Nat) : List Char → Option Nat
  | [] => none
  | cs => cs.foldl (fun acc c => do return (← acc) * base + (← digitValue base c)) (some 0)

/-- Decimal digits with one `.`: a real (R129). One side of the `.` may be empty, as in `.5` and `5.`
(DESIGN CHOICE, log entry 17). -/
def realLiteral (whole frac : List Char) : Option Value :=
  match numeral 10 (whole ++ frac) with
  | some n => some (.real (mkRat n (10 ^ frac.length)))
  | none => none

/-- A number that starts with a digit or a `.`: the characters up to the next separator, all of them
(R129). A format suffix is refused (D44). The prefix `0X` and hexadecimal digits of either case are
accepted (DESIGN CHOICE, log entry 17). -/
def decimalLiteral (cs : List Char) : Option Value :=
  match cs with
  | '0' :: 'x' :: h => (numeral 16 h).map (fun n => .int n)
  | '0' :: 'X' :: h => (numeral 16 h).map (fun n => .int n)
  | _ =>
    if cs.contains '.' then
      realLiteral (cs.takeWhile (· != '.')) ((cs.dropWhile (· != '.')).drop 1)
    else (numeral 10 cs).map (fun n => .int n)

/-- The tokens of one line, read with fuel; a comment ends it. A carriage return is a blank, wherever
it stands (DESIGN CHOICE, log entry 17). -/
def lexLine : Nat → List Char → Except AsmError (List Token)
  | _, [] => .ok []
  | 0, _ :: _ => .error .lexical
  | fuel + 1, c :: cs =>
    let one (t : Token) : Except AsmError (List Token) :=
      match lexLine fuel cs with
      | .ok ts => .ok (t :: ts)
      | .error e => .error e
    let number (body : List Char) (v : Option Value) (rest : List Char) :
        Except AsmError (List Token) :=
      match body, v, lexLine fuel rest with
      | _ :: _, some v, .ok ts => .ok (.num v :: ts)
      | _, _, _ => .error .lexical
    if c == ' ' || c == '\t' || c == '\r' then lexLine fuel cs
    else if c == ';' then .ok []
    else if c == ',' then one .comma
    else if c == ':' then one .colon
    else if c == '+' then one .plus
    else if c == '-' then one .minus
    else if c == '|' then one .bar
    else if isIdentStart c then
      let body := (c :: cs).takeWhile isIdentChar
      let rest := (c :: cs).dropWhile isIdentChar
      let suffix := rest.take 1 |>.filter (fun d => d == '#' || d == '^')
      match lexLine fuel (rest.drop suffix.length) with
      | .ok ts => .ok (.ident (body.map Char.toUpper ++ suffix) :: ts)
      | .error e => .error e
    else if c == '$' then
      let body := cs.takeWhile isIdentChar
      number body ((numeral 16 body).map (fun n => .int n)) (cs.dropWhile isIdentChar)
    else if c == '%' then
      let body := cs.takeWhile isIdentChar
      number body ((numeral 2 (body.filter (· != '_'))).map (fun n => .int n)) (cs.dropWhile isIdentChar)
    else if c.isDigit || c == '.' then
      let inNumber (d : Char) : Bool := isIdentChar d || d == '.'
      let body := (c :: cs).takeWhile inNumber
      number body (decimalLiteral body) ((c :: cs).dropWhile inNumber)
    else .error .lexical

/-! ### Expressions (R130) -/

inductive Term where
  | lit (v : Value)
  | sym (n : Name)
  deriving DecidableEq, Repr

inductive Joiner where
  | add | sub | bor
  deriving DecidableEq, Repr

structure Expr where
  first : Term
  rest : List (Joiner × Term)
  deriving DecidableEq, Repr

/-- The negative of a literal (R129: `-5`, `-1.25`). -/
def Value.negate : Value → Value
  | .int n => .int (-n)
  | .real x => .real (-x)

/-- A term at the head of the tokens, and the tokens after it. A minus may stand before a literal of
any base, with blanks between, and before no symbol (DESIGN CHOICE, log entry 17). -/
def parseTerm : List Token → Option (Term × List Token)
  | .num v :: ts => some (.lit v, ts)
  | .minus :: .num v :: ts => some (.lit v.negate, ts)
  | .ident n :: ts => some (.sym n, ts)
  | _ => none

/-- The joined terms of an expression, all tokens used up; with fuel. -/
def parseRest : Nat → List Token → Option (List (Joiner × Term))
  | _, [] => some []
  | 0, _ :: _ => none
  | fuel + 1, t :: ts => do
    let j ← match t with
      | .plus => some Joiner.add
      | .minus => some Joiner.sub
      | .bar => some Joiner.bor
      | _ => none
    let (x, ts) ← parseTerm ts
    return (j, x) :: (← parseRest fuel ts)

def parseExpr (ts : List Token) : Option Expr := do
  let (x, rest) ← parseTerm ts
  return { first := x, rest := ← parseRest rest.length rest }

/-- The operands of a statement: the tokens between commas. -/
def splitCommas : List Token → List (List Token)
  | [] => [[]]
  | .comma :: ts => [] :: splitCommas ts
  | t :: ts =>
    match splitCommas ts with
    | [] => [[t]]
    | g :: gs => (t :: g) :: gs

def parseOperands (ts : List Token) : Option (List Expr) :=
  if ts.isEmpty then some [] else (splitCommas ts).mapM parseExpr

/-! ### Lines (R126, R128, R131, R132) -/

inductive Statement where
  | equ (n : Name) (e : Expr)
  | mem (n : Name) (e : Expr)
  | instr (mnemonic : Name) (operands : List Expr)
  deriving DecidableEq, Repr

structure Line where
  label : Option Name
  statement : Option Statement
  deriving DecidableEq, Repr

/-- A name that a label or a directive may define: no region suffix. -/
def plainName (n : Name) : Bool := n.all isIdentChar

/-- `EQU name value` and `MEM name size`: name and value are parted by blanks or a comma (R126). -/
def parseDirective (mk : Name → Expr → Statement) : List Token → Option Statement
  | .ident n :: .comma :: ts => if plainName n then (parseExpr ts).map (mk n) else none
  | .ident n :: ts => if plainName n then (parseExpr ts).map (mk n) else none
  | _ => none

def parseStatement : List Token → Option (Option Statement)
  | [] => some none
  | .ident n :: ts =>
    if n = "EQU".toList then (parseDirective .equ ts).map some
    else if n = "MEM".toList then (parseDirective .mem ts).map some
    else (parseOperands ts).map (fun es => some (.instr n es))
  | _ => none

def parseLine (ts : List Token) : Option Line :=
  match ts with
  | .ident n :: .colon :: rest =>
    if plainName n then (parseStatement rest).map (fun s => ⟨some n, s⟩) else none
  | _ => (parseStatement ts).map (fun s => ⟨none, s⟩)

/-- The lines of a text, each ended by a line feed; R126 names no terminator (DESIGN CHOICE, log
entry 17). -/
def splitLines : List Char → List (List Char)
  | [] => [[]]
  | c :: cs =>
    match splitLines cs with
    | [] => [[c]]
    | l :: ls => if c == '\n' then [] :: l :: ls else (c :: l) :: ls

def parseText (text : List Char) : Except AsmError (List Line) :=
  (splitLines text).mapM (fun l =>
    match lexLine l.length l with
    | .error e => .error e
    | .ok ts =>
      match parseLine ts with
      | some line => .ok line
      | none => .error .malformed)

/-! ### Symbols (R131 to R133) -/

/-- `REG0` .. `REG31`. -/
def regSymbols : List (Name × Int) :=
  (List.range 32).map (fun k => ("REG".toList ++ (Nat.toDigits 10 k), 0x20 + (k : Int)))

/-- The predefined symbols of R133 but for the first operands of CHO. -/
def predefined : List (Name × Int) :=
  [("SIN0_RATE".toList, 0x00), ("SIN0_RANGE".toList, 0x01), ("SIN1_RATE".toList, 0x02),
   ("SIN1_RANGE".toList, 0x03), ("RMP0_RATE".toList, 0x04), ("RMP0_RANGE".toList, 0x05),
   ("RMP1_RATE".toList, 0x06), ("RMP1_RANGE".toList, 0x07), ("POT0".toList, 0x10),
   ("POT1".toList, 0x11), ("POT2".toList, 0x12), ("ADCL".toList, 0x14), ("ADCR".toList, 0x15),
   ("DACL".toList, 0x16), ("DACR".toList, 0x17), ("ADDR_PTR".toList, 0x18),
   ("SIN0".toList, 0), ("SIN1".toList, 1), ("RMP0".toList, 2), ("RMP1".toList, 3),
   ("SIN".toList, 0x00), ("COS".toList, 0x01), ("REG".toList, 0x02), ("COMPC".toList, 0x04),
   ("COMPA".toList, 0x08), ("RPTR2".toList, 0x10), ("NA".toList, 0x20),
   ("RUN".toList, 0x10), ("ZRC".toList, 0x08), ("ZRO".toList, 0x04), ("GEZ".toList, 0x02),
   ("NEG".toList, 0x01)] ++ regSymbols

/-- The symbols that name a sub-operation, only as the first operand of CHO (R133). -/
def choSymbols : List (Name × Int) :=
  [("RDA".toList, 0), ("SOF".toList, 2), ("RDAL".toList, 3)]

/-- The symbol table (R131, R132). -/
structure Symbols where
  /-- label, index of the next instruction -/
  labels : List (Name × Nat)
  /-- constants, resolved when used -/
  equs : List (Name × Expr)
  /-- region start, end (`#`) and middle (`^`) -/
  regions : List (Name × Int)
  deriving Repr

/-- Combining two values (R130): a real makes the result real; `|` is of integers. -/
def Value.join (j : Joiner) (a b : Value) : Except AsmError Value :=
  match j, a, b with
  | .add, .int x, .int y => .ok (.int (x + y))
  | .add, .int x, .real y => .ok (.real (x + y))
  | .add, .real x, .int y => .ok (.real (x + y))
  | .add, .real x, .real y => .ok (.real (x + y))
  | .sub, .int x, .int y => .ok (.int (x - y))
  | .sub, .int x, .real y => .ok (.real (x - y))
  | .sub, .real x, .int y => .ok (.real (x - y))
  | .sub, .real x, .real y => .ok (.real (x - y))
  | .bor, .int x, .int y => .ok (.int (Int.lor x y))
  | .bor, _, _ => .error .outOfRange

def evalTerm (f : Name → Except AsmError Value) : Term → Except AsmError Value
  | .lit v => .ok v
  | .sym n => f n

/-- An expression, left to right (R130), its symbols resolved by `f`. -/
def evalExpr (f : Name → Except AsmError Value) (e : Expr) : Except AsmError Value :=
  e.rest.foldl (fun acc jt => do (← acc).join jt.1 (← evalTerm f jt.2)) (evalTerm f e.first)

/-- A symbol outside a skip target: predefined, a region name, or a constant, whose definition may
use symbols defined later (R131). The fuel runs out only on constants defined by one another. -/
def resolve (equs : List (Name × Expr)) (regions : List (Name × Int)) :
    Nat → Name → Except AsmError Value
  | 0, _ => .error .undefinedSymbol
  | fuel + 1, n =>
    match predefined.lookup n, regions.lookup n, equs.lookup n with
    | some v, _, _ => .ok (.int v)
    | none, some v, _ => .ok (.int v)
    | none, none, some e => evalExpr (resolve equs regions fuel) e
    | none, none, none => .error .undefinedSymbol

def Symbols.eval (t : Symbols) (e : Expr) : Except AsmError Value :=
  evalExpr (resolve t.equs t.regions (t.equs.length + 1)) e

/-! ### Pass 1 (R128, R132, R139) -/

/-- The instructions of a program, with the label before each counted off (R128). -/
def collect : List Line → Nat → List (Name × Nat) × List (Name × Expr) × List (Name × Expr)
    × List (Name × List Expr)
  | [], _ => ([], [], [], [])
  | l :: ls, i =>
    let next := match l.statement with
      | some (.instr _ _) => i + 1
      | _ => i
    let (labels, equs, mems, instrs) := collect ls next
    let labels := match l.label with
      | some n => (n, i) :: labels
      | none => labels
    match l.statement with
    | none => (labels, equs, mems, instrs)
    | some (.equ n e) => (labels, (n, e) :: equs, mems, instrs)
    | some (.mem n e) => (labels, equs, (n, e) :: mems, instrs)
    | some (.instr m es) => (labels, equs, mems, (m, es) :: instrs)

/-- The regions, laid upward from `next` in order of declaration (R132). -/
def layRegions (equs : List (Name × Expr)) :
    List (Name × Expr) → Int → List (Name × Int) → Except AsmError (List (Name × Int))
  | [], _, done => .ok done
  | (n, e) :: ms, next, done =>
    match evalExpr (resolve equs done (equs.length + 1)) e with
    | .error e => .error e
    | .ok (.real _) => .error .outOfRange
    | .ok (.int size) =>
      if 0 ≤ size ∧ next + size + 1 ≤ 32768 then
        layRegions equs ms (next + size + 1)
          (done ++ [(n, next), (n ++ ['#'], next + size), (n ++ ['^'], next + size / 2)])
      else .error .outOfRange

/-- Names defined once, and none of them predefined (R128, R131). A mnemonic or directive name that is
no symbol of R133 may be defined (DESIGN CHOICE, log entry 18). -/
def namesFresh (names : List Name) : Bool :=
  names.Nodup && names.all (fun n =>
    (predefined.lookup n).isNone && (choSymbols.lookup n).isNone)

/-! ### Operands to fields (R134, R135) -/

/-- A field of `b` bits in format `Sm.n` (R134). -/
def signedField (b n : Nat) (v : Value) : Except AsmError (BitVec b) :=
  match v with
  | .real x =>
    let field := (x * 2 ^ n + 1 / 2).floor
    if -(2 ^ (b - 1)) ≤ field ∧ field ≤ 2 ^ (b - 1) - 1 then .ok (BitVec.ofInt b field)
    else .error .outOfRange
  | .int i =>
    if -(2 ^ (b - 1)) ≤ i ∧ i ≤ 2 ^ b - 1 then .ok (BitVec.ofInt b i) else .error .outOfRange

/-- An integer between two bounds, as a field of `b` bits (R134, R135). -/
def boundedField (b : Nat) (lo hi : Int) (v : Value) : Except AsmError (BitVec b) :=
  match v with
  | .real _ => .error .outOfRange
  | .int i => if lo ≤ i ∧ i ≤ hi then .ok (BitVec.ofInt b i) else .error .outOfRange

/-- The mask of AND, OR, XOR: an integer 0 .. 0xFFFFFF, or a real as S.23 (R134). -/
def maskField (v : Value) : Except AsmError Word :=
  match v with
  | .real _ => signedField 24 23 v
  | .int _ => boundedField 24 0 0xFFFFFF v

/-- A register operand (R135, R133). -/
def regField (v : Value) : Except AsmError Reg := do
  match Reg.ofAddr? (← boundedField 6 0 63 v) with
  | some r => return r
  | none => .error .outOfRange

/-- The 5-bit condition mask as flags. -/
def condOfBits (m : BitVec 5) : SkpCond := SkpCond.ofWord (place 27 m)

/-- The 6-bit flag set as flags. -/
def flagsOfBits (m : BitVec 6) : ChoFlags := ChoFlags.ofWord (place 24 m)

/-- The oscillator of CHO: 0 SIN0, 1 SIN1, 2 RMP0, 3 RMP1 (R133). -/
def lfoField (v : Value) : Except AsmError Lfo := do
  let b : BitVec 2 ← boundedField 2 0 3 v
  return Lfo.ofBits (b.getLsbD 1) (b.getLsbD 0)

/-- The sine oscillator of WLDS, 0 or 1 (R133). -/
def sineField (v : Value) : Except AsmError Osc := do
  let b : BitVec 1 ← boundedField 1 0 1 v
  return Osc.ofBit (b.getLsbD 0)

/-- The ramp oscillator of WLDR and JAM, 2 or 3 (R133). -/
def rampField (v : Value) : Except AsmError Osc := do
  let b : BitVec 2 ← boundedField 2 2 3 v
  return Osc.ofBit (b.getLsbD 0)

/-- The range of WLDR, in samples, as its code (R135). -/
def rangeField (v : Value) : Except AsmError (BitVec 2) :=
  if v = .int 4096 then .ok 0
  else if v = .int 2048 then .ok 1
  else if v = .int 1024 then .ok 2
  else if v = .int 512 then .ok 3
  else .error .outOfRange

/-- The skip count of the SKP at index `i`, from a label or a number (R137). -/
def skipField (t : Symbols) (i plen : Nat) (e : Expr) : Except AsmError (BitVec 6) := do
  let n : Int ← match e with
    | ⟨.sym l, []⟩ =>
      match t.labels.lookup l with
      | some target => Except.ok ((target : Int) - i - 1)
      | none =>
        match ← t.eval e with
        | .int n => .ok n
        | .real _ => .error .outOfRange
    | e =>
      match ← t.eval e with
      | .int n => .ok n
      | .real _ => .error .outOfRange
  if 0 ≤ n ∧ n ≤ 63 ∧ (i : Int) + 1 + n ≤ plen then return BitVec.ofInt 6 n else .error .skipTarget

/-! ### Pass 2 (R135, R136, R139) -/

/-- The three forms of CHO (R135). -/
def buildCho (t : Symbols) (first : Expr) (es : List Expr) : Except AsmError Instr :=
  match first with
  | ⟨.sym sub, []⟩ =>
    match choSymbols.lookup sub, es with
    | some 0, [o, c, a] => do
      return .choRda (flagsOfBits (← boundedField 6 0 63 (← t.eval c))) (← lfoField (← t.eval o))
        (← boundedField 16 0 32767 (← t.eval a))
    | some 2, [o, c, d] => do
      return .choSof (flagsOfBits (← boundedField 6 0 63 (← t.eval c))) (← lfoField (← t.eval o))
        (← signedField 16 15 (← t.eval d))
    | some 3, [o] => do return .choRdal .empty (← lfoField (← t.eval o))
    | some 3, [o, c] => do
      return .choRdal (flagsOfBits (← boundedField 6 0 63 (← t.eval c)))
        (← lfoField (← t.eval o))
    | _, _ => .error .malformed
  | _ => .error .malformed

/-- `M addr, c` (R135). -/
def buildM (t : Symbols) (mk : BitVec 11 → BitVec 16 → Instr) : List Expr → Except AsmError Instr
  | [a, c] => do
    return mk (← signedField 11 9 (← t.eval c)) (← boundedField 16 0 32767 (← t.eval a))
  | _ => .error .malformed

/-- `R reg, c` (R135). -/
def buildR (t : Symbols) (mk : Reg → BitVec 16 → Instr) : List Expr → Except AsmError Instr
  | [r, c] => do return mk (← regField (← t.eval r)) (← signedField 16 14 (← t.eval c))
  | _ => .error .malformed

/-- `reg` (R135). -/
def buildReg (t : Symbols) (mk : Reg → Instr) : List Expr → Except AsmError Instr
  | [r] => do return mk (← regField (← t.eval r))
  | _ => .error .malformed

/-- `S c, d`, the offset with `n` fraction bits (R135). -/
def buildS (t : Symbols) (n : Nat) (mk : BitVec 16 → BitVec 11 → Instr) :
    List Expr → Except AsmError Instr
  | [c, d] => do return mk (← signedField 16 14 (← t.eval c)) (← signedField 11 n (← t.eval d))
  | _ => .error .malformed

/-- `L m` (R135). -/
def buildL (t : Symbols) (mk : Word → Instr) : List Expr → Except AsmError Instr
  | [m] => do return mk (← maskField (← t.eval m))
  | _ => .error .malformed

/-- A statement without operands. -/
def buildPlain (i : Instr) : List Expr → Except AsmError Instr
  | [] => .ok i
  | _ => .error .malformed

/-- The instruction of the statement at index `i` of a program of `plen` (R135, R136). -/
def buildInstr (t : Symbols) (i plen : Nat) (m : Name) (es : List Expr) :
    Except AsmError Instr :=
  if m = "RDA".toList then buildM t .rda es
  else if m = "RMPA".toList then
    match es with
    | [c] => do return .rmpa (← signedField 11 9 (← t.eval c))
    | _ => .error .malformed
  else if m = "WRA".toList then buildM t .wra es
  else if m = "WRAP".toList then buildM t .wrap es
  else if m = "RDAX".toList then buildR t .rdax es
  else if m = "RDFX".toList then buildR t .rdfx es
  else if m = "WRAX".toList then buildR t .wrax es
  else if m = "WRHX".toList then buildR t .wrhx es
  else if m = "WRLX".toList then buildR t .wrlx es
  else if m = "MAXX".toList then buildR t .maxx es
  else if m = "MULX".toList then buildReg t .mulx es
  else if m = "LOG".toList then buildS t 6 .log es
  else if m = "EXP".toList then buildS t 10 .exp es
  else if m = "SOF".toList then buildS t 10 .sof es
  else if m = "AND".toList then buildL t .and es
  else if m = "OR".toList then buildL t .or es
  else if m = "XOR".toList then buildL t .xor es
  else if m = "SKP".toList then
    match es with
    | [c, n] => do
      return .skp (condOfBits (← boundedField 5 0 31 (← t.eval c))) (← skipField t i plen n)
    | _ => .error .malformed
  else if m = "WLDS".toList then
    match es with
    | [n, f, a] => do
      return .wlds (← sineField (← t.eval n)) (← boundedField 9 0 511 (← t.eval f))
        (← boundedField 15 0 32767 (← t.eval a))
    | _ => .error .malformed
  else if m = "WLDR".toList then
    match es with
    | [n, f, a] => do
      return .wldr (← rampField (← t.eval n)) (← boundedField 16 (-32768) 32767 (← t.eval f))
        (← rangeField (← t.eval a))
    | _ => .error .malformed
  else if m = "JAM".toList then
    match es with
    | [n] => do return .jam (← rampField (← t.eval n))
    | _ => .error .malformed
  else if m = "CHO".toList then
    match es with
    | first :: rest => buildCho t first rest
    | [] => .error .malformed
  else if m = "CLR".toList then buildPlain .clr es
  else if m = "NOT".toList then buildPlain .not es
  else if m = "ABSA".toList then buildPlain .absa es
  else if m = "LDAX".toList then buildReg t .ldax es
  else if m = "NOP".toList then buildPlain .nop es
  else if m = "JMP".toList then
    match es with
    | [n] => do return .jmp (← skipField t i plen n)
    | _ => .error .malformed
  else .error .malformed

/-- One instruction per mnemonic line, from index `i` on (R139), a pseudo-instruction as its expansion
(R136); a side condition of R120 broken is an operand out of range (R292, SE2). -/
def buildAll (t : Symbols) (plen : Nat) : Nat → List (Name × List Expr) →
    Except AsmError (List MachineInstr)
  | _, [] => .ok []
  | i, (m, es) :: rest =>
    match buildInstr t i plen m es with
    | .error e => .error e
    | .ok instr =>
      if instr.wellFormed then
        match buildAll t plen (i + 1) rest with
        | .error e => .error e
        | .ok instrs => .ok (instr.machine :: instrs)
      else .error .outOfRange

/-- Every constant has a value, used or not: values are resolved in pass 2 (R131), and any error
keeps the image back (R138). -/
def Symbols.checkConstants (t : Symbols) : Except AsmError (List Value) :=
  t.equs.mapM (fun c => t.eval c.2)

/-- The assembler (R126 to R139): the program of a text. -/
def assemble (text : List Char) : Except AsmError (List MachineInstr) :=
  match parseText text with
  | .error e => .error e
  | .ok lines =>
    let (labels, equs, mems, instrs) := collect lines 0
    if !namesFresh (labels.map Prod.fst ++ equs.map Prod.fst ++ mems.map Prod.fst) then
      .error .duplicateLabel
    else if Config.nInstr < instrs.length then .error .programTooLong
    else
      match layRegions equs mems 0 [] with
      | .error e => .error e
      | .ok regions =>
        let t : Symbols := ⟨labels, equs, regions⟩
        match t.checkConstants with
        | .error e => .error e
        | .ok _ => buildAll t instrs.length 0 instrs

/-- The image of a text, as `Load` takes it (R124, R138). -/
def assembleImage (text : List Char) : Except AsmError (List Word32) :=
  match assemble text with
  | .error e => .error e
  | .ok program => .ok (encodeProgram program)

end Sys2Proof.Machine
end

