-- ==== Sys2Proof/Safety.lean ====
section
/-! DEFINITION. What a good state is (R46 and the rules that bound single fields), what a safe outcome
is (R149, R290), and the frames that claims about instructions are stated with. -/

namespace Sys2Proof.Safety

open Sys2Proof.Machine

/-! ### The invariants of the state -/

/-- R22, R46 (a): the program fits its memory, and the slots from `PLEN` on hold the pad word. -/
abbrev ProgramFits (s : State) : Prop :=
  s.plen ≤ Config.nInstr ∧ Memory.wf padWord s.plen s.prog = true

/-- R22, R46 (b): every word of the installed program is valid. -/
abbrev ProgramValid (s : State) : Prop := ∀ i < s.plen, validWord (s.progWord i) = true

/-- R39: the delay memory has 32768 cells and stands in its canonical form. -/
abbrev DelayMemoryFormed (s : State) : Prop := Memory.wf 0 Config.dSize s.dram = true

/-- R41, R46 (d): no write is scheduled between ticks; inside a tick, at most one for each instruction
counted off, and 128 in all. -/
abbrev QueueBounded (s : State) : Prop :=
  match s.phase with
  | .between => s.wq = []
  | .walk => s.wq.length ≤ s.pc.toNat ∧ s.wq.length ≤ Config.nInstr

/-- R23: the largest value `PC` takes is 191. -/
abbrev CounterBounded (s : State) : Prop := s.pc.toNat ≤ 191

/-- What the formula of R252 can give: a sine output never saturates, and its negative is exact
(R264). The floor of the shift makes the lower bound one more in magnitude than the 8388351 that the
prose of R252 infers (log entry 11). -/
abbrev SineBounded (v : Word) : Prop := -8388352 ≤ v.toInt ∧ v.toInt ≤ 8388351

/-- R257: a ramp output lies below `2^(22 - code)`. -/
abbrev RampBounded (v : BitVec 22) (code : BitVec 2) : Prop := v.toNat < 2 ^ (22 - code.toNat)

/-- The bounds of the oscillator output latch (R252, R257). -/
abbrev LatchBounded (s : State) : Prop :=
  SineBounded s.sinv0 ∧ SineBounded s.sinv1 ∧ SineBounded s.cosv0 ∧ SineBounded s.cosv1
    ∧ RampBounded s.rmpv0 s.rmpc0 ∧ RampBounded s.rmpv1 s.rmpc1

/-- R20: two states agree on every piece of state the spec gives the machine. The model's own fields
and the ports are left out. -/
structure SameCore (s t : State) : Prop where
  mode : s.mode = t.mode
  prog : s.prog = t.prog
  plen : s.plen = t.plen
  pc : s.pc = t.pc
  acc : s.acc = t.acc
  pacc : s.pacc = t.pacc
  lr : s.lr = t.lr
  run : s.run = t.run
  regs : s.regs = t.regs
  dram : s.dram = t.dram
  wp : s.wp = t.wp
  wq : s.wq = t.wq
  sph0 : s.sph0 = t.sph0
  sph1 : s.sph1 = t.sph1
  rph0 : s.rph0 = t.rph0
  rph1 : s.rph1 = t.rph1
  sinv0 : s.sinv0 = t.sinv0
  sinv1 : s.sinv1 = t.sinv1
  cosv0 : s.cosv0 = t.cosv0
  cosv1 : s.cosv1 = t.cosv1
  rmpv0 : s.rmpv0 = t.rmpv0
  rmpv1 : s.rmpv1 = t.rmpv1
  rmpc0 : s.rmpc0 = t.rmpc0
  rmpc1 : s.rmpc1 = t.rmpc1

/-- R325: Idle is a single state, the one of `Reset`, and no tick is under way in it (R140). -/
abbrev IdleIsReset (s : State) : Prop :=
  s.mode = .idle → s.phase = .between ∧ SameCore s State.reset

/-- The invariant of the machine. -/
structure Inv (s : State) : Prop where
  programFits : ProgramFits s
  programValid : ProgramValid s
  delayMemoryFormed : DelayMemoryFormed s
  queueBounded : QueueBounded s
  counterBounded : CounterBounded s
  latchBounded : LatchBounded s
  idleIsReset : IdleIsReset s

/-! ### Safe outcomes -/

/-- The step goes on: neither a fault nor a refusal (R149). -/
def GoesOn (o : Host.Outcome State Fault Refusal) : Prop := ∃ t, o = .next t

/-- `k` steps of the machine, stopping at the first fault or refusal. -/
def runSteps : Nat → State → Host.Outcome State Fault Refusal
  | 0, s => .next s
  | k + 1, s =>
    match step s with
    | .next t => runSteps k t
    | .fault f => .fault f
    | .refused r => .refused r

/-! ### Frames -/

/-- What no instruction touches (R22, R25, R27, R40, R44, R50, R68): mode, program, PACC, RUN, the
delay memory at every slot, the write pointer, the oscillator latch, and the model's own fields. -/
structure SameOutside (s t : State) : Prop where
  mode : t.mode = s.mode
  prog : t.prog = s.prog
  plen : t.plen = s.plen
  pacc : t.pacc = s.pacc
  run : t.run = s.run
  delayMemory : ∀ a, t.dramSlot a = s.dramSlot a
  dramEntries : t.dram = s.dram
  wp : t.wp = s.wp
  sinv0 : t.sinv0 = s.sinv0
  sinv1 : t.sinv1 = s.sinv1
  cosv0 : t.cosv0 = s.cosv0
  cosv1 : t.cosv1 = s.cosv1
  rmpv0 : t.rmpv0 = s.rmpv0
  rmpv1 : t.rmpv1 = s.rmpv1
  rmpc0 : t.rmpc0 = s.rmpc0
  rmpc1 : t.rmpc1 = s.rmpc1
  phase : t.phase = s.phase
  pending : t.pending = s.pending
  outL : t.outL = s.outL
  outR : t.outR = s.outR
  loadOk : t.loadOk = s.loadOk
  cfg : t.cfg = s.cfg

/-- No phase accumulator changes. -/
structure SamePhases (s t : State) : Prop where
  sph0 : t.sph0 = s.sph0
  sph1 : t.sph1 = s.sph1
  rph0 : t.rph0 = s.rph0
  rph1 : t.rph1 = s.rph1

/-- Every register keeps its word, but those of `changed`. -/
def SameRegsBut (changed : List Reg) (s t : State) : Prop :=
  ∀ r, r ∉ changed → t.readReg r = s.readReg r

/-- What an instruction that writes only ACC leaves: all but ACC and the program counter. -/
structure OnlyAcc (s t : State) : Prop where
  outside : SameOutside s t
  regs : SameRegsBut [] s t
  phases : SamePhases s t
  lr : t.lr = s.lr
  wq : t.wq = s.wq

/-- What a delay-memory read leaves: all but ACC, LR and the program counter. -/
structure OnlyAccLr (s t : State) : Prop where
  outside : SameOutside s t
  regs : SameRegsBut [] s t
  phases : SamePhases s t
  wq : t.wq = s.wq

/-- What a delay-memory write leaves: all but ACC, the write queue and the program counter. The delay
memory itself is unchanged at every address: the write is only scheduled. -/
structure OnlyAccWq (s t : State) : Prop where
  outside : SameOutside s t
  regs : SameRegsBut [] s t
  phases : SamePhases s t
  lr : t.lr = s.lr

/-- What a register store leaves: all but ACC, register `r` and the program counter. -/
structure OnlyAccReg (r : Reg) (s t : State) : Prop where
  outside : SameOutside s t
  regs : SameRegsBut [r] s t
  phases : SamePhases s t
  lr : t.lr = s.lr
  wq : t.wq = s.wq

/-! ### Arithmetic as the rules write it -/

/-- The range of a 24-bit word (R160), on integers. -/
def clamp (n : Int) : Int := max (-8388608) (min n 8388607)

/-- `rnd(x, f)` of R165, on integers: floor division, after half an LSB under `nearest`. -/
def rounded (mode : Rounding) (x : Int) (f : Nat) : Int :=
  Int.fdiv (match mode with | .nearest => x + 2 ^ (f - 1) | .floor => x) (2 ^ f)

/-- `mul(a, c, f)` of R164, on integers. -/
def product (mode : Rounding) (a c : Int) (f : Nat) : Int := clamp (rounded mode (a * c) f)

/-- `PHYS(a) = (WP - a) mod 32768` of R65, on naturals. -/
def slotOf (wp a : Nat) : Nat := (wp + 32768 - a % 32768) % 32768

/-- The condition of R236 on integers: every selected condition of R238 holds. -/
def SkipHolds (c : SkpCond) (s : State) : Prop :=
  (c.run = true → s.run = true)
    ∧ (c.zrc = true → ¬ (s.acc.toInt < 0 ↔ s.pacc.toInt < 0))
    ∧ (c.zro = true → s.acc.toInt = 0)
    ∧ (c.gez = true → 0 ≤ s.acc.toInt)
    ∧ (c.neg = true → s.acc.toInt < 0)

/-- The registers an instruction writes (R201 to R212, R260, R261). -/
def registersWritten : Instr → List Reg
  | .wrax r _ => [r]
  | .wrhx r _ => [r]
  | .wrlx r _ => [r]
  | .wlds .zero _ _ => [.sin0Rate, .sin0Range]
  | .wlds .one _ _ => [.sin1Rate, .sin1Range]
  | .wldr .zero _ _ => [.rmp0Rate, .rmp0Range]
  | .wldr .one _ _ => [.rmp1Rate, .rmp1Range]
  | .rda _ _ => []
  | .rmpa _ => []
  | .wra _ _ => []
  | .wrap _ _ => []
  | .rdax _ _ => []
  | .rdfx _ _ => []
  | .maxx _ _ => []
  | .mulx _ => []
  | .log _ _ => []
  | .exp _ _ => []
  | .sof _ _ => []
  | .and _ => []
  | .or _ => []
  | .xor _ => []
  | .skp _ _ => []
  | .jam _ => []
  | .choRda _ _ _ => []
  | .choSof _ _ _ => []
  | .choRdal _ _ => []
  | .clr => []
  | .not => []
  | .absa => []
  | .ldax _ => []
  | .nop => []
  | .jmp _ => []

/-- The five input registers (R32, R33). -/
abbrev inputRegs : List Reg := [.pot0, .pot1, .pot2, .adcl, .adcr]

end Sys2Proof.Safety
end

