-- ==== Sys2Proof/Certificates/Slice0/Obligations.lean ====
section
/-! DEFINITION. The statements for the provers, from the numbered rules of spec/. Integers are used
where the rules use them: `clamp`, `rounded`, `product` and `slotOf` of Safety.lean are R160, R165,
R164 and R65 written on unbounded integers. -/

open Sys2Proof Sys2Proof.Machine Sys2Proof.Safety

/-! ### Delay-memory instructions -/

/-- R221. RDA reads the word at its logical address (bit 15 of the field dropped), latches it in LR
and adds its product to ACC; nothing else but the program counter changes. -/
def Obligations.RdaReadsAndAccumulates : Prop :=
  ∀ (c : BitVec 11) (a : BitVec 16) (s : State), ∃ t, exec (.rda c a) s = .next t
    ∧ t.lr = s.dramSlot (slotOf s.wp.toNat a.toNat)
    ∧ t.acc.toInt = clamp (s.acc.toInt + product s.cfg.rnd t.lr.toInt c.toInt 9)
    ∧ t.pc = s.pc + 1 ∧ OnlyAccLr s t

/-- R222. RMPA does the same at the address in bits 22:8 of ADDR_PTR. -/
def Obligations.RmpaReadsThroughAddrPtr : Prop :=
  ∀ (c : BitVec 11) (s : State), ∃ t, exec (.rmpa c) s = .next t
    ∧ t.lr = s.dramSlot (slotOf s.wp.toNat ((s.readReg .addrPtr).toNat / 256 % 32768))
    ∧ t.acc.toInt = clamp (s.acc.toInt + product s.cfg.rnd t.lr.toInt c.toInt 9)
    ∧ t.pc = s.pc + 1 ∧ OnlyAccLr s t

/-- R223. WRA schedules the unscaled ACC and scales ACC. No address of the delay memory changes: the
store is the queue entry, at the logical address `delayAddr a`. -/
def Obligations.WraSchedulesThenScales : Prop :=
  ∀ (c : BitVec 11) (a : BitVec 16) (s : State), ∃ t, exec (.wra c a) s = .next t
    ∧ t.wq = s.wq ++ [(delayAddr a, s.acc)] ∧ (delayAddr a).toNat = a.toNat % 32768
    ∧ t.acc.toInt = product s.cfg.rnd s.acc.toInt c.toInt 9
    ∧ t.pc = s.pc + 1 ∧ OnlyAccWq s t

/-- R224. WRAP schedules the unscaled ACC, scales ACC and adds the delay-read latch. -/
def Obligations.WrapSchedulesThenAddsLatch : Prop :=
  ∀ (c : BitVec 11) (a : BitVec 16) (s : State), ∃ t, exec (.wrap c a) s = .next t
    ∧ t.wq = s.wq ++ [(delayAddr a, s.acc)] ∧ (delayAddr a).toNat = a.toNat % 32768
    ∧ t.acc.toInt = clamp (product s.cfg.rnd s.acc.toInt c.toInt 9 + s.lr.toInt)
    ∧ t.pc = s.pc + 1 ∧ OnlyAccWq s t

/-! ### Register instructions -/

/-- R201. -/
def Obligations.RdaxAccumulatesProduct : Prop :=
  ∀ (r : Reg) (c : BitVec 16) (s : State), ∃ t, exec (.rdax r c) s = .next t
    ∧ t.acc.toInt = clamp (s.acc.toInt + product s.cfg.rnd (s.readReg r).toInt c.toInt 14)
    ∧ t.pc = s.pc + 1 ∧ OnlyAcc s t

/-- R202. -/
def Obligations.RdfxFiltersTowardAcc : Prop :=
  ∀ (r : Reg) (c : BitVec 16) (s : State), ∃ t, exec (.rdfx r c) s = .next t
    ∧ t.acc.toInt = clamp (product s.cfg.rnd (clamp (s.acc.toInt - (s.readReg r).toInt)) c.toInt 14
        + (s.readReg r).toInt)
    ∧ t.pc = s.pc + 1 ∧ OnlyAcc s t

/-- R208. -/
def Obligations.MaxxTakesLargerMagnitude : Prop :=
  ∀ (r : Reg) (c : BitVec 16) (s : State), ∃ t, exec (.maxx r c) s = .next t
    ∧ t.acc.toInt = max (clamp |product s.cfg.rnd (s.readReg r).toInt c.toInt 14|)
        (clamp |s.acc.toInt|)
    ∧ t.pc = s.pc + 1 ∧ OnlyAcc s t

/-- R210. -/
def Obligations.MulxMultipliesByRegister : Prop :=
  ∀ (r : Reg) (s : State), ∃ t, exec (.mulx r) s = .next t
    ∧ t.acc.toInt = product s.cfg.rnd s.acc.toInt (s.readReg r).toInt 23
    ∧ t.pc = s.pc + 1 ∧ OnlyAcc s t

/-- R205. The register gets the unscaled ACC; every other register keeps its word. -/
def Obligations.WraxStoresThenScales : Prop :=
  ∀ (r : Reg) (c : BitVec 16) (s : State), r ∉ inputRegs → ∃ t, exec (.wrax r c) s = .next t
    ∧ t.readReg r = s.acc
    ∧ t.acc.toInt = product s.cfg.rnd s.acc.toInt c.toInt 14
    ∧ t.pc = s.pc + 1 ∧ OnlyAccReg r s t

/-- R206. -/
def Obligations.WrhxStoresThenAddsPacc : Prop :=
  ∀ (r : Reg) (c : BitVec 16) (s : State), r ∉ inputRegs → ∃ t, exec (.wrhx r c) s = .next t
    ∧ t.readReg r = s.acc
    ∧ t.acc.toInt = clamp (product s.cfg.rnd s.acc.toInt c.toInt 14 + s.pacc.toInt)
    ∧ t.pc = s.pc + 1 ∧ OnlyAccReg r s t

/-- R207. -/
def Obligations.WrlxStoresThenFiltersPacc : Prop :=
  ∀ (r : Reg) (c : BitVec 16) (s : State), r ∉ inputRegs → ∃ t, exec (.wrlx r c) s = .next t
    ∧ t.readReg r = s.acc
    ∧ t.acc.toInt = clamp (product s.cfg.rnd (clamp (s.pacc.toInt - s.acc.toInt)) c.toInt 14
        + s.pacc.toInt)
    ∧ t.pc = s.pc + 1 ∧ OnlyAccReg r s t

/-! ### Accumulator instructions -/

/-- R180. -/
def Obligations.SofScalesAndOffsets : Prop :=
  ∀ (c : BitVec 16) (d : BitVec 11) (s : State), ∃ t, exec (.sof c d) s = .next t
    ∧ t.acc.toInt = clamp (product s.cfg.rnd s.acc.toInt c.toInt 14 + d.toInt * 8192)
    ∧ t.pc = s.pc + 1 ∧ OnlyAcc s t

/-- R184. The kernel is applied to the clamped magnitude of ACC, whatever kernel is chosen. -/
def Obligations.LogScalesLogOfMagnitude : Prop :=
  ∀ (c : BitVec 16) (d : BitVec 11) (s : State), ∃ t, exec (.log c d) s = .next t
    ∧ t.acc.toInt = clamp (product s.cfg.rnd (log2fn s.cfg.logExp (clamp |s.acc.toInt|).toNat)
        c.toInt 14 + d.toInt * 8192)
    ∧ t.pc = s.pc + 1 ∧ OnlyAcc s t

/-- R185. -/
def Obligations.ExpScalesPowerOfTwo : Prop :=
  ∀ (c : BitVec 16) (d : BitVec 11) (s : State), ∃ t, exec (.exp c d) s = .next t
    ∧ t.acc.toInt = clamp (product s.cfg.rnd (exp2fn s.cfg.logExp s.acc.toInt) c.toInt 14
        + d.toInt * 8192)
    ∧ t.pc = s.pc + 1 ∧ OnlyAcc s t

/-- R168, R181 to R183. AND, OR and XOR act on the 24-bit pattern of ACC, bit by bit. -/
def Obligations.BitwiseOperationsActOnPattern : Prop :=
  ∀ (m : Word) (s : State),
    (∃ t, exec (.and m) s = .next t
      ∧ (∀ i < 24, t.acc.getLsbD i = (s.acc.getLsbD i && m.getLsbD i))
      ∧ t.pc = s.pc + 1 ∧ OnlyAcc s t)
    ∧ (∃ t, exec (.or m) s = .next t
      ∧ (∀ i < 24, t.acc.getLsbD i = (s.acc.getLsbD i || m.getLsbD i))
      ∧ t.pc = s.pc + 1 ∧ OnlyAcc s t)
    ∧ (∃ t, exec (.xor m) s = .next t
      ∧ (∀ i < 24, t.acc.getLsbD i = (s.acc.getLsbD i ^^ m.getLsbD i))
      ∧ t.pc = s.pc + 1 ∧ OnlyAcc s t)

/-! ### Skip -/

/-- R236, R238, R241 (a), (f). SKP writes the program counter alone, and skips exactly when every
selected condition holds; from a program slot the counter goes forward only, by at most 64. -/
def Obligations.SkpMovesOnlyThePc : Prop :=
  ∀ (c : SkpCond) (n : BitVec 6) (s : State), ∃ t, exec (.skp c n) s = .next t
    ∧ (SkipHolds c s → t.pc = s.pc + 1 + BitVec.ofNat 8 n.toNat)
    ∧ (¬ SkipHolds c s → t.pc = s.pc + 1)
    ∧ (s.pc.toNat < 128 → s.pc.toNat + 1 ≤ t.pc.toNat ∧ t.pc.toNat ≤ s.pc.toNat + 64)
    ∧ t.acc = s.acc ∧ OnlyAcc s t

/-! ### Spellings -/

/-- R186, R187, R203, R209. CLR, NOT, LDAX and ABSA complete with the effect the rules give: ACC
becomes 0, the one's complement, the register, the clamped magnitude; and they are the words the rules
give. -/
def Obligations.SpellingsOfAccumulatorForms : Prop :=
  ∀ (r : Reg) (s : State),
    (∃ t, exec .clr s = .next t ∧ t.acc = 0 ∧ t.pc = s.pc + 1 ∧ OnlyAcc s t)
    ∧ (∃ t, exec .not s = .next t ∧ t.acc.toInt = -s.acc.toInt - 1 ∧ t.pc = s.pc + 1 ∧ OnlyAcc s t)
    ∧ (∃ t, exec (.ldax r) s = .next t ∧ t.acc = s.readReg r ∧ t.pc = s.pc + 1 ∧ OnlyAcc s t)
    ∧ (∃ t, exec .absa s = .next t ∧ t.acc.toInt = clamp |s.acc.toInt| ∧ t.pc = s.pc + 1
        ∧ OnlyAcc s t)
    ∧ encode .clr = 0x0000000E ∧ encode .not = 0xFFFFFF10 ∧ encode .absa = 0x00000009
    ∧ (encode (.ldax r)).toNat = r.addr.toNat * 32 + 5

/-- R239, R240. NOP advances the program counter and JMP skips N instructions; nothing else
changes; and they are the words the rules give. -/
def Obligations.SpellingsOfSkip : Prop :=
  ∀ (n : BitVec 6) (s : State),
    exec .nop s = .next { s with pc := s.pc + 1 }
    ∧ exec (.jmp n) s = .next { s with pc := s.pc + 1 + BitVec.ofNat 8 n.toNat }
    ∧ encode .nop = 0x00000011 ∧ (encode (.jmp n)).toNat = n.toNat * 2097152 + 17

/-! ### Oscillator instructions -/

/-- R260. WLDS writes both parameter registers of a sine oscillator, so that their fields are F and A
and every other bit is 0, and restarts its phase; the other oscillators and everything else stay. -/
def Obligations.WldsLoadsAndRestarts : Prop :=
  ∀ (f : BitVec 9) (a : BitVec 15) (s : State),
    (∃ t, exec (.wlds .zero f a) s = .next t
      ∧ (t.readReg .sin0Rate).toNat = f.toNat * 16384 ∧ (t.readReg .sin0Range).toNat = a.toNat * 256
      ∧ SameRegsBut [.sin0Rate, .sin0Range] s t
      ∧ t.sph0 = 0 ∧ t.sph1 = s.sph1 ∧ t.rph0 = s.rph0 ∧ t.rph1 = s.rph1
      ∧ t.acc = s.acc ∧ t.lr = s.lr ∧ t.wq = s.wq ∧ t.pc = s.pc + 1 ∧ SameOutside s t)
    ∧ (∃ t, exec (.wlds .one f a) s = .next t
      ∧ (t.readReg .sin1Rate).toNat = f.toNat * 16384 ∧ (t.readReg .sin1Range).toNat = a.toNat * 256
      ∧ SameRegsBut [.sin1Rate, .sin1Range] s t
      ∧ t.sph1 = 0 ∧ t.sph0 = s.sph0 ∧ t.rph0 = s.rph0 ∧ t.rph1 = s.rph1
      ∧ t.acc = s.acc ∧ t.lr = s.lr ∧ t.wq = s.wq ∧ t.pc = s.pc + 1 ∧ SameOutside s t)

/-- R261. WLDR writes both parameter registers of a ramp oscillator, the rate as a signed field in bits
23:8, and keeps its phase. -/
def Obligations.WldrLoadsAndKeepsPhase : Prop :=
  ∀ (f : BitVec 16) (a : BitVec 2) (s : State),
    (∃ t, exec (.wldr .zero f a) s = .next t
      ∧ (t.readReg .rmp0Rate).toInt = f.toInt * 256 ∧ (t.readReg .rmp0Range).toNat = a.toNat
      ∧ SameRegsBut [.rmp0Rate, .rmp0Range] s t ∧ SamePhases s t
      ∧ t.acc = s.acc ∧ t.lr = s.lr ∧ t.wq = s.wq ∧ t.pc = s.pc + 1 ∧ SameOutside s t)
    ∧ (∃ t, exec (.wldr .one f a) s = .next t
      ∧ (t.readReg .rmp1Rate).toInt = f.toInt * 256 ∧ (t.readReg .rmp1Range).toNat = a.toNat
      ∧ SameRegsBut [.rmp1Rate, .rmp1Range] s t ∧ SamePhases s t
      ∧ t.acc = s.acc ∧ t.lr = s.lr ∧ t.wq = s.wq ∧ t.pc = s.pc + 1 ∧ SameOutside s t)

/-- R262. JAM zeroes one ramp phase and changes nothing else, the ramp value of this tick included. -/
def Obligations.JamZeroesOneRampPhase : Prop :=
  ∀ (s : State),
    exec (.jam .zero) s = .next { s with rph0 := 0, pc := s.pc + 1 }
    ∧ exec (.jam .one) s = .next { s with rph1 := 0, pc := s.pc + 1 }

/-- R266. CHO RDA reads at the displaced address, reduced modulo 32768, and weighs the word with the
selector's coefficient. -/
def Obligations.ChoRdaReadsDisplaced : Prop :=
  ∀ (c : ChoFlags) (o : Lfo) (a : BitVec 16) (s : State), c.allowed o = true →
    ∃ t, exec (.choRda c o a) s = .next t
      ∧ t.lr = s.dramSlot (slotOf s.wp.toNat
          (((a.toNat : Int) + (lfoSelect s c o).off) % 32768).toNat)
      ∧ t.acc.toInt
          = clamp (s.acc.toInt + product s.cfg.rnd t.lr.toInt (lfoSelect s c o).coef 23)
      ∧ t.pc = s.pc + 1 ∧ OnlyAccLr s t

/-- R267. -/
def Obligations.ChoSofScalesByCoefficient : Prop :=
  ∀ (c : ChoFlags) (o : Lfo) (d : BitVec 16) (s : State), c.allowed o = true →
    ∃ t, exec (.choSof c o d) s = .next t
      ∧ t.acc.toInt
          = clamp (product s.cfg.rnd s.acc.toInt (lfoSelect s c o).coef 23 + d.toInt * 256)
      ∧ t.pc = s.pc + 1 ∧ OnlyAcc s t

/-- R268, over the latch bounds that every step keeps (`Safety.LatchBounded`). -/
def Obligations.ChoRdalLoadsOscillatorValue : Prop :=
  ∀ (c : ChoFlags) (o : Lfo) (s : State), c.allowedRdal o = true → LatchBounded s →
    ∃ t, exec (.choRdal c o) s = .next t
      ∧ t.acc.toInt = (lfoSelect s c o).p
      ∧ t.pc = s.pc + 1 ∧ OnlyAcc s t

/-- R264, R265, sine oscillators: the value is the latch word or its negative, its integer part in
units of 512 is the offset, and the rest is the coefficient as an S.23 number, one LSB short of the
complement under COMPC. The flag REG has no part in it. -/
def Obligations.SelectorSplitsSineValue : Prop :=
  ∀ (c : ChoFlags) (n : Osc) (s : State), LatchBounded s →
    let sel := lfoSelect s c (.sine n)
    let v := match n, c.cos with
      | .zero, false => s.sinv0
      | .zero, true => s.cosv0
      | .one, false => s.sinv1
      | .one, true => s.cosv1
    sel.p = (if c.compa then -v.toInt else v.toInt)
      ∧ (∃ frac : Int, 0 ≤ frac ∧ frac < 512 ∧ sel.p = sel.off * 512 + frac
        ∧ sel.coef = (if c.compc then 8388607 - frac * 16384 else frac * 16384))
      ∧ -16384 ≤ sel.off ∧ sel.off ≤ 16383
      ∧ 0 ≤ sel.coef ∧ sel.coef ≤ 8388607
      ∧ lfoSelect s { c with reg := !c.reg } (.sine n) = sel

/-- R264, R265, ramp oscillators: the value stays in the ramp's range `2^(22 - code)`, RPTR2 moves it
by half the range and COMPA mirrors it; without NA its integer part in units of 1024 is the offset and
the rest the coefficient, and under NA the offset is 0 and the coefficient is the triangle of the
unmirrored pointer. The flag REG has no part in it. -/
def Obligations.SelectorSplitsRampValue : Prop :=
  ∀ (c : ChoFlags) (n : Osc) (s : State), LatchBounded s →
    let sel := lfoSelect s c (.ramp n)
    let v : Int := (match n with | .zero => s.rmpv0 | .one => s.rmpv1).toNat
    let code := (match n with | .zero => s.rmpc0 | .one => s.rmpc1).toNat
    let m : Int := 2 ^ (22 - code)
    let q : Int := if c.rptr2 then (if v < m / 2 then v + m / 2 else v - m / 2) else v
    sel.p = (if c.compa then m - 1 - q else q)
      ∧ 0 ≤ sel.p ∧ sel.p < m
      ∧ (c.na = false → ∃ frac : Int, 0 ≤ frac ∧ frac < 1024 ∧ sel.p = sel.off * 1024 + frac
        ∧ 0 ≤ sel.off ∧ sel.off < 4096 / 2 ^ code
        ∧ sel.coef = (if c.compc then 8388607 - frac * 8192 else frac * 8192))
      ∧ (c.na = true → sel.off = 0
        ∧ sel.coef = (if c.compc then 8388607 - (min q (m - 1 - q)) * 2 ^ (2 + code)
            else (min q (m - 1 - q)) * 2 ^ (2 + code)))
      ∧ 0 ≤ sel.coef ∧ sel.coef ≤ 8388607
      ∧ lfoSelect s { c with reg := !c.reg } (.ramp n) = sel

/-- R266 (b). A word weighed with the selector's coefficient never saturates: the clamp of the product
is idle. -/
def Obligations.ChoProductNeverSaturates : Prop :=
  ∀ (c : ChoFlags) (o : Lfo) (s : State) (v : Word), LatchBounded s →
    product s.cfg.rnd v.toInt (lfoSelect s c o).coef 23
      = rounded s.cfg.rnd (v.toInt * (lfoSelect s c o).coef) 23

/-! ### Oscillators -/

/-- R251, R256. At the start of a tick every phase advances once: a sine phase by bits 22:14 of its
rate register modulo 2^20, a ramp phase down by the signed bits 23:8 of its rate register modulo
`2^(26 - code)`. -/
def Obligations.OscillatorsAdvanceOncePerTick : Prop :=
  ∀ (s : State) (i : TickInput) (rest : List HostAction),
    s.phase = .between → s.mode = .loaded → s.pending = .tick i :: rest →
    ∃ t, step s = .next t
      ∧ t.sph0.toNat = (s.sph0.toNat + (s.readReg .sin0Rate).toNat / 16384 % 512) % 1048576
      ∧ t.sph1.toNat = (s.sph1.toNat + (s.readReg .sin1Rate).toNat / 16384 % 512) % 1048576
      ∧ (t.rph0.toNat : Int) = ((s.rph0.toNat : Int) - Int.fdiv (s.readReg .rmp0Rate).toInt 256)
          % 2 ^ (26 - (s.readReg .rmp0Range).toNat % 4)
      ∧ (t.rph1.toNat : Int) = ((s.rph1.toNat : Int) - Int.fdiv (s.readReg .rmp1Rate).toInt 256)
          % 2 ^ (26 - (s.readReg .rmp1Range).toNat % 4)

/-- R252, R257. The latch computed at the start of a tick: the kernel values times bits 22:8 of the
range registers, floored by 15 bits; the ramp phases less four bits, with the codes of this advance. -/
def Obligations.LatchFollowsAdvancedPhases : Prop :=
  ∀ (s : State) (i : TickInput) (rest : List HostAction),
    s.phase = .between → s.mode = .loaded → s.pending = .tick i :: rest →
    ∃ t, step s = .next t
      ∧ t.sinv0.toInt = Int.fdiv (sinfn s.cfg.sinCos t.sph0.toNat
          * ((s.readReg .sin0Range).toNat / 256 % 32768 : Nat)) 32768
      ∧ t.cosv0.toInt = Int.fdiv (cosfn s.cfg.sinCos t.sph0.toNat
          * ((s.readReg .sin0Range).toNat / 256 % 32768 : Nat)) 32768
      ∧ t.sinv1.toInt = Int.fdiv (sinfn s.cfg.sinCos t.sph1.toNat
          * ((s.readReg .sin1Range).toNat / 256 % 32768 : Nat)) 32768
      ∧ t.cosv1.toInt = Int.fdiv (cosfn s.cfg.sinCos t.sph1.toNat
          * ((s.readReg .sin1Range).toNat / 256 % 32768 : Nat)) 32768
      ∧ t.rmpv0.toNat = t.rph0.toNat / 16 ∧ t.rmpc0.toNat = (s.readReg .rmp0Range).toNat % 4
      ∧ t.rmpv1.toNat = t.rph1.toNat / 16 ∧ t.rmpc1.toNat = (s.readReg .rmp1Range).toNat % 4

/-! ### Kernels -/

/-- R254. For every choice of kernel: the range, the quadrant values, and the cosine a quarter turn
ahead. For the reference kernel also the further values R254 lists, and at every phase the real sine:
the kernel lies within half an LSB of it, up to 2^-40 of an LSB, so it is the floor of R254 wherever
the real value is no closer than that to a tie. -/
def Obligations.SineKernelProperties : Prop :=
  (∀ (k : KernelChoice),
    (∀ p, -8388607 ≤ sinfn k p ∧ sinfn k p ≤ 8388607)
    ∧ sinfn k 0 = 0 ∧ sinfn k 262144 = 8388607 ∧ sinfn k 524288 = 0 ∧ sinfn k 786432 = -8388607
    ∧ (∀ p, cosfn k p = sinfn k ((p + 262144) % 1048576)))
  ∧ sinfn .reference 1 = 50 ∧ sinfn .reference 256 = 12868 ∧ sinfn .reference 512 = 25736
  ∧ sinfn .reference 131072 = 5931641 ∧ sinfn .reference 1048575 = -50
  ∧ (∀ p : Nat, p < 1048576 →
      |(sinfn .reference p : ℝ) - Real.sin (2 * Real.pi * p / 2 ^ 20) * 8388607| ≤ 1 / 2 + 1 / 2 ^ 40)

/-- The properties of R172 for every choice of kernel: the range, the exact values at 0 and at the
powers of two. -/
def Obligations.LogKernelProperties : Prop :=
  ∀ (k : KernelChoice),
    (∀ m < 8388608, -8388608 ≤ log2fn k m ∧ log2fn k m ≤ -1)
    ∧ log2fn k 0 = -8388608
    ∧ (∀ e < 7, log2fn k (2 ^ e) = -8388608)
    ∧ (∀ e : Nat, 7 ≤ e → e ≤ 22 → log2fn k (2 ^ e) = ((e : Int) - 23) * 524288)

/-- R172. The executable reference logarithm is the reference definition: the floor of the real
logarithm in S4.19, kept at -16.0. -/
def Obligations.LogReferenceIsFloorOfRealLog : Prop :=
  ∀ m : Nat, 1 ≤ m → m < 8388608 →
    log2Ref m = max (-8388608) ⌊Real.logb 2 ((m : ℝ) / 2 ^ 23) * 2 ^ 19⌋

/-- The properties of R173 for every choice of kernel: the range, the exact values at whole exponents,
and the ceiling from 0 on. -/
def Obligations.ExpKernelProperties : Prop :=
  ∀ (k : KernelChoice),
    (∀ a : Int, -8388608 ≤ a → a ≤ 8388607 → 0 ≤ exp2fn k a ∧ exp2fn k a ≤ 8388607)
    ∧ (∀ a : Int, 0 ≤ a → exp2fn k a = 8388607)
    ∧ (∀ e : Nat, 1 ≤ e → e ≤ 16 → exp2fn k (-(e : Int) * 524288) = 2 ^ (23 - e))

/-- R173. The executable reference exponential is the reference definition: the floor of the real
power in S.23. -/
def Obligations.ExpReferenceIsFloorOfRealPower : Prop :=
  ∀ a : Int, -8388608 ≤ a → a < 0 →
    exp2Ref a = ⌊(2 : ℝ) ^ ((a : ℝ) / 2 ^ 19) * 2 ^ 23⌋

/-- R172, R173. Both reference kernels are monotone non-decreasing. -/
def Obligations.ReferenceKernelsMonotone : Prop :=
  (∀ m n : Nat, m ≤ n → log2Ref m ≤ log2Ref n)
    ∧ (∀ a b : Int, -8388608 ≤ a → a ≤ b → exp2Ref a ≤ exp2Ref b)

/-! ### Encoding -/

/-- R121, R136. Decoding an encoded well-formed machine instruction gives it back, with every operand
at every value; the word of a spelling decodes to the machine instruction it stands for. -/
def Obligations.DecodeOfEncode : Prop :=
  (∀ i : MachineInstr, i.instr.wellFormed = true → decode (encode i.instr) = .ok i)
    ∧ (∀ i : Instr, i.wellFormed = true → decode (encode i) = .ok i.machine)

/-- R121. Encoding a decoded instruction gives back the same word, so that decoding is injective; the
decoder answers well-formed instructions only. -/
def Obligations.EncodeOfDecode : Prop :=
  ∀ (w : Word32) (i : MachineInstr), decode w = .ok i →
    encode i.instr = w ∧ i.instr.wellFormed = true

/-- R120. The decoder answers an instruction exactly on the words of `ValidWord`. -/
def Obligations.DecodesExactlyValidWords : Prop :=
  ∀ w : Word32, (∃ i, decode w = .ok i) ↔ validWord w = true

/-- Words of 95_test_vectors.md decode to the instructions it prints them for, and some it lists as
invalid are refused. A sanity statement. -/
def Obligations.VectorWordsDecode : Prop :=
  decode 0x20000C80 = .ok (.rda 0x100 100)
    ∧ decode 0x400002C6 = .ok (.wrax .dacl 0x4000)
    ∧ decode 0x2000200D = .ok (.sof 0x2000 0x100)
    ∧ decode 0x10400011 = .ok (.skp ⟨false, false, false, true, false⟩ 2)
    ∧ decode 0x7C000072 = .ok (.wldr .one 0xE000 3)
    ∧ decode 0x06007D14 = .ok (.choRda ⟨false, false, false, true, true, false⟩ (.sine .zero) 1000)
    ∧ decode 0x00000015 = .error .unassigned
    ∧ decode 0x00000206 = .error .readOnlyRegister

/-- R124, R72. A byte image of words, four bytes each with the most significant first, is read back as
those words; and a byte string read as words has four bytes for each. -/
def Obligations.ImageBytesAreBigEndian : Prop :=
  (∀ ws : List Word32, bytesWords (ws.flatMap wordBytes) = some ws)
    ∧ (∀ (b : List Byte) (ws : List Word32), bytesWords b = some ws →
        b.length = 4 * ws.length ∧ b = ws.flatMap wordBytes)
    ∧ (∀ w : Word32, (wordBytes w).map BitVec.toNat
        = [w.toNat / 16777216, w.toNat / 65536 % 256, w.toNat / 256 % 256, w.toNat % 256])

/-! ### The sequencer -/

/-- R144, R145. Inside a tick, at a program slot, a step is the meaning of the instruction the slot's
word decodes to, with nothing around it. -/
def Obligations.StepRunsDecodedInstruction : Prop :=
  ∀ (s : State) (i : MachineInstr), s.phase = .walk → s.pc.toNat < s.plen → s.pc.toNat < 128 →
    decode (s.progWord s.pc.toNat) = .ok i → step s = exec i.instr s

/-- R141, R142. A tick request on a Loaded core latches the five input words unchanged, sets PC to 0
and empties the queue; every other register and ACC, PACC, LR, RUN, the program, the delay memory and
the outputs stay. -/
def Obligations.TickBeginsByLatchingInputs : Prop :=
  ∀ (s : State) (i : TickInput) (rest : List HostAction),
    s.phase = .between → s.mode = .loaded → s.pending = .tick i :: rest →
    ∃ t, step s = .next t
      ∧ t.readReg .pot0 = i.pot0 ∧ t.readReg .pot1 = i.pot1 ∧ t.readReg .pot2 = i.pot2
      ∧ t.readReg .adcl = i.inL ∧ t.readReg .adcr = i.inR ∧ SameRegsBut inputRegs s t
      ∧ t.pc = 0 ∧ t.wq = [] ∧ t.phase = .walk ∧ t.pending = rest
      ∧ t.acc = s.acc ∧ t.pacc = s.pacc ∧ t.lr = s.lr ∧ t.run = s.run ∧ t.mode = s.mode
      ∧ t.prog = s.prog ∧ t.plen = s.plen ∧ t.wp = s.wp ∧ (∀ a, t.dramSlot a = s.dramSlot a)
      ∧ t.outL = s.outL ∧ t.outR = s.outR ∧ t.cfg = s.cfg

/-- R150, R68. When the walk is over the commit applies the queue in program order, so that of several
writes to one slot the last stands, with the write pointer of this tick; then it advances the
pointer, copies ACC to PACC, sets RUN and drives the outputs. Registers, ACC, LR, phases and latch
stay. -/
def Obligations.CommitEndsTheTick : Prop :=
  ∀ s : State, s.phase = .walk → s.plen ≤ s.pc.toNat → DelayMemoryFormed s →
    ∃ t, step s = .next t
      ∧ (∀ p, t.dramSlot p
          = match s.wq.reverse.find? (fun e => slotOf s.wp.toNat e.1.toNat == p) with
            | some e => e.2
            | none => s.dramSlot p)
      ∧ t.wq = [] ∧ t.wp.toNat = (s.wp.toNat + 1) % 32768 ∧ t.pacc = s.acc ∧ t.run = true
      ∧ t.outL = s.readReg .dacl ∧ t.outR = s.readReg .dacr ∧ t.phase = .between
      ∧ SameRegsBut [] s t ∧ SamePhases s t ∧ t.acc = s.acc ∧ t.lr = s.lr
      ∧ t.mode = s.mode ∧ t.prog = s.prog ∧ t.plen = s.plen ∧ t.pending = s.pending
      ∧ t.sinv0 = s.sinv0 ∧ t.sinv1 = s.sinv1 ∧ t.cosv0 = s.cosv0 ∧ t.cosv1 = s.cosv1
      ∧ t.rmpv0 = s.rmpv0 ∧ t.rmpv1 = s.rmpv1 ∧ t.rmpc0 = s.rmpc0 ∧ t.rmpc1 = s.rmpc1
      ∧ t.cfg = s.cfg

/-- R69. A word scheduled at logical address `a` (the last one, if several) is read at logical address
`a + 1` once the tick has committed; a word not overwritten moves there too. -/
def Obligations.CommittedWordMovesUpOneAddress : Prop :=
  ∀ (s t : State) (a : BitVec 15), s.phase = .walk → s.plen ≤ s.pc.toNat → DelayMemoryFormed s →
    step s = .next t →
    t.memRead (a + 1) = match s.wq.reverse.find? (fun e => e.1 == a) with
      | some e => e.2
      | none => s.memRead a

/-- R66, R341. Within a tick a read never sees a write of the same tick: after a WRA or WRAP at any
address every delay read (RDA, RMPA, CHO RDA) at any address gives what it gave before. -/
def Obligations.ReadsNeverSeeSameTickWrites : Prop :=
  ∀ (c : BitVec 11) (a : BitVec 16) (i : Instr) (s t u v : State),
    exec (.wra c a) s = .next t ∨ exec (.wrap c a) s = .next t →
    (∃ c' b, i = .rda c' b) ∨ (∃ c', i = .rmpa c') ∨ (∃ f o b, i = .choRda f o b) →
    exec i s = .next u → exec i t = .next v → v.lr = u.lr

/-- R140. A tick in Idle drives `IDLE_OUT` and changes no state of R20. -/
def Obligations.IdleTickChangesNothing : Prop :=
  ∀ (s : State) (i : TickInput) (rest : List HostAction),
    s.phase = .between → s.mode = .idle → s.pending = .tick i :: rest →
    ∃ t, step s = .next t ∧ SameCore s t ∧ t.pending = rest ∧ t.phase = .between
      ∧ (s.cfg.idleOut = .zero → t.outL = 0 ∧ t.outR = 0)
      ∧ (s.cfg.idleOut = .passThrough → t.outL = i.inL ∧ t.outR = i.inR)

/-! ### Host actions -/

/-- R47, R320. Right after reset: Idle, no program, the pad word in every slot, and every register, every
delay word and every piece of oscillator state zero. -/
def Obligations.ResetZeroesEverything : Prop :=
  let s := State.reset
  s.mode = .idle ∧ s.plen = 0 ∧ (∀ i, s.progWord i = 0x00000011#32) ∧ s.pc = 0
    ∧ s.acc = 0 ∧ s.pacc = 0 ∧ s.lr = 0 ∧ s.run = false ∧ (∀ r, s.readReg r = 0)
    ∧ (∀ i, s.dramSlot i = 0) ∧ s.wp = 0 ∧ s.wq = []
    ∧ s.sph0 = 0 ∧ s.sph1 = 0 ∧ s.rph0 = 0 ∧ s.rph1 = 0
    ∧ s.sinv0 = 0 ∧ s.sinv1 = 0 ∧ s.cosv0 = 0 ∧ s.cosv1 = 0
    ∧ s.rmpv0 = 0 ∧ s.rmpv1 = 0 ∧ s.rmpc0 = 0 ∧ s.rmpc1 = 0

/-- R322 to R324. An image that passes the checks is installed whole over a state that is otherwise the
one of reset, with the verdict true; one that fails leaves every piece of state as it was, with the
verdict false. -/
def Obligations.LoadIsAllOrNothing : Prop :=
  ∀ (s : State) (img : Image) (rest : List HostAction),
    s.phase = .between → s.pending = .load img :: rest →
    ∃ t, step s = .next t ∧ t.pending = rest ∧ t.phase = .between ∧ t.cfg = s.cfg
      ∧ (∀ ws, img.words? = some ws → ws.length ≤ 128 → (∀ w ∈ ws, validWord w = true) →
          t.loadOk = true ∧ t.plen = ws.length
            ∧ (∀ i, t.progWord i = ws.getD i 0x00000011#32)
            ∧ SameCore t { State.reset with mode := .loaded, plen := t.plen, prog := t.prog })
      ∧ ((img.words? = none ∨ ∃ ws, img.words? = some ws
            ∧ (128 < ws.length ∨ ∃ w ∈ ws, validWord w = false)) →
          t.loadOk = false ∧ SameCore s t)

/-- R320, R325. `Reset` and `Unload` give the state of reset, from any state between ticks. The model's
choice (log entry 9): these two leave all three ports as they are, and a `Load`, accepted or not,
leaves the two outputs. -/
def Obligations.ResetAndUnloadClear : Prop :=
  ∀ (s : State) (a : HostAction) (rest : List HostAction),
    s.phase = .between → s.pending = a :: rest →
    (a = .reset ∨ a = .unload →
      ∃ t, step s = .next t ∧ SameCore t State.reset ∧ t.pending = rest ∧ t.phase = .between
        ∧ t.cfg = s.cfg ∧ t.outL = s.outL ∧ t.outR = s.outR ∧ t.loadOk = s.loadOk)
    ∧ (∀ img, a = .load img → ∃ t, step s = .next t ∧ t.outL = s.outL ∧ t.outR = s.outR)

/-- R311, R51. A snapshot changes nothing, and between ticks nothing happens that no host requested. -/
def Obligations.SnapshotAndWaitingChangeNothing : Prop :=
  ∀ (s : State), s.phase = .between →
    (s.pending = [] → step s = .next s)
    ∧ (∀ rest, s.pending = .snapshot :: rest → step s = .next { s with pending := rest })

/-! ### All instructions -/

/-- R149, R290. Every instruction a valid word spells completes in every state. -/
def Obligations.WellFormedInstructionsComplete : Prop :=
  ∀ (i : Instr) (s : State), i.wellFormed = true → GoesOn (exec i s)

/-- The model's choice (R145 lets a model refuse what no valid word spells): a store term that names an
input register and a CHO term with an excluded flag are refused by name. -/
def Obligations.IllFormedTermsAreRefused : Prop :=
  ∀ (s : State),
    (∀ (r : Reg) (c : BitVec 16), r ∈ inputRegs →
      exec (.wrax r c) s = .refused (.readOnlyRegister r)
        ∧ exec (.wrhx r c) s = .refused (.readOnlyRegister r)
        ∧ exec (.wrlx r c) s = .refused (.readOnlyRegister r))
    ∧ (∀ (c : ChoFlags) (o : Lfo) (a : BitVec 16), c.allowed o = false →
      exec (.choRda c o a) s = .refused .excludedFlags
        ∧ exec (.choSof c o a) s = .refused .excludedFlags)
    ∧ (∀ (c : ChoFlags) (o : Lfo), c.allowedRdal o = false →
      exec (.choRdal c o) s = .refused .excludedFlags)

/-- R22, R24 to R27, R32, R33, R40 to R44, R68, R250. No instruction touches the program, the mode,
PACC, RUN, the write pointer, the oscillator latch or any word of the delay memory; the registers that
change are those the instruction writes, never an input register; the queue grows only at its end,
only by a WRA or WRAP; LR changes only by a delay read; ACC stays under SKP with its spellings, WLDS,
WLDR and JAM; and a phase changes only to 0, a sine phase by its WLDS, a ramp phase by its JAM. -/
def Obligations.InstructionsKeepTheirFrame : Prop :=
  ∀ (i : Instr) (s t : State), exec i s = .next t →
    SameOutside s t ∧ SameRegsBut (registersWritten i) s t
      ∧ (∀ r ∈ inputRegs, t.readReg r = s.readReg r)
      ∧ (t.wq = s.wq
        ∨ ∃ c a, (i = .wra c a ∨ i = .wrap c a) ∧ t.wq = s.wq ++ [(delayAddr a, s.acc)])
      ∧ (t.lr = s.lr
        ∨ (∃ c a, i = .rda c a) ∨ (∃ c, i = .rmpa c) ∨ (∃ c o a, i = .choRda c o a))
      ∧ ((∃ c n, i = .skp c n) ∨ i = .nop ∨ (∃ n, i = .jmp n) ∨ (∃ n f a, i = .wlds n f a)
          ∨ (∃ n f a, i = .wldr n f a) ∨ (∃ n, i = .jam n) → t.acc = s.acc)
      ∧ (t.sph0 = s.sph0 ∨ (∃ f a, i = .wlds .zero f a) ∧ t.sph0 = 0)
      ∧ (t.sph1 = s.sph1 ∨ (∃ f a, i = .wlds .one f a) ∧ t.sph1 = 0)
      ∧ (t.rph0 = s.rph0 ∨ i = .jam .zero ∧ t.rph0 = 0)
      ∧ (t.rph1 = s.rph1 ∨ i = .jam .one ∧ t.rph1 = 0)

/-- R143. Every instruction but SKP and its spelling JMP leaves the counter at the next one. -/
def Obligations.InstructionsAdvanceByOne : Prop :=
  ∀ (i : Instr) (s t : State), exec i s = .next t →
    (∀ c n, i ≠ .skp c n) → (∀ n, i ≠ .jmp n) → t.pc = s.pc + 1

/-! ### The whole machine -/

/-- The state after reset has the invariant of Safety.lean. -/
def Obligations.ResetHasInvariant : Prop := Inv State.reset

/-- R22, R46, R23, R41, R252, R257, R325. Every step, host actions, ticks and every instruction
included, keeps the invariant of Safety.lean from every state that has it. -/
def Obligations.StepKeepsInvariant : Prop :=
  ∀ s t : State, Inv s → step s = .next t → Inv t

/-- R149, R290. From a state with the invariant no step stops: there is no fault and no refusal. -/
def Obligations.NothingStopsTheMachine : Prop :=
  ∀ s : State, Inv s → GoesOn (step s)

/-- R39, R68. The delay memory changes only at the commit and by an accepted `Load`, `Unload` and
`Reset`, which zero every word: every other step, of the walk or between ticks, keeps it. -/
def Obligations.DelayMemoryChangesOnlyAtCommitOrClearing : Prop :=
  ∀ s t : State, step s = .next t →
    (∀ a, t.dramSlot a = s.dramSlot a)
    ∨ (s.phase = .walk ∧ s.plen ≤ s.pc.toNat)
    ∨ (s.phase = .between
        ∧ (∃ act rest, s.pending = act :: rest
          ∧ (act = .reset ∨ act = .unload
            ∨ ∃ img ws, act = .load img ∧ acceptImage img = some ws))
        ∧ ∀ a, t.dramSlot a = 0)

/-- R140, R144, R147, R150. A tick requested on a Loaded core with the invariant completes: within
PLEN + 2 steps of the machine (the start, at most PLEN instructions, the commit) it is between ticks
again, with the request gone, the pointer one further, PACC equal to ACC, RUN set and the outputs at
DACL and DACR. -/
def Obligations.RequestedTickCompletes : Prop :=
  ∀ (s : State) (i : TickInput) (rest : List HostAction), Inv s →
    s.mode = .loaded → s.phase = .between → s.pending = .tick i :: rest →
    ∃ k t, k ≤ s.plen + 2 ∧ runSteps k s = .next t
      ∧ t.phase = .between ∧ t.mode = .loaded ∧ t.pending = rest ∧ t.wq = []
      ∧ t.wp = s.wp + 1 ∧ t.pacc = t.acc ∧ t.run = true
      ∧ t.outL = t.readReg .dacl ∧ t.outR = t.readReg .dacr
      ∧ t.prog = s.prog ∧ t.plen = s.plen

/-! ### The assembler -/

/-- R138, R322, R121. What the assembler hands over is an acceptable image: at most 128 words, every
one of them valid, so that `Load` installs it; and it decodes to the assembled program. -/
def Obligations.AssembledImagesRoundTrip : Prop :=
  ∀ (text : List Char) (ws : List Word32), assembleImage text = .ok ws →
    acceptImage (.words ws) = some ws
      ∧ ∃ program, assemble text = .ok program ∧ ws.length = program.length
        ∧ decodeProgram ws = .ok program
end

