-- ==== Sys2Proof/Laws/Alu.lean ====
section
/-! SUPPORT. The ALU on integers (R160 to R166): what each helper's word is, read as a signed
integer. -/

namespace Sys2Proof.Laws

open Sys2Proof.Machine Sys2Proof.Safety

/-- A clamped integer lies in the range of a word (R160). -/
theorem clamp_bounds (n : Int) : -8388608 ≤ clamp n ∧ clamp n ≤ 8388607 := by
  unfold clamp; omega

/-- A word is in its range (R9). -/
theorem word_bounds (v : Word) : -8388608 ≤ v.toInt ∧ v.toInt ≤ 8388607 := by
  have h1 := BitVec.le_toInt v
  have h2 := BitVec.toInt_lt (x := v)
  norm_num at h1 h2
  omega

/-- An integer in the range is stored exactly. -/
theorem toInt_ofInt24 {n : Int} (h1 : -8388608 ≤ n) (h2 : n ≤ 8388607) :
    (BitVec.ofInt 24 n).toInt = n := by
  rw [BitVec.toInt_ofInt, Int.bmod_def]
  norm_num
  split <;> omega

/-- `sat24` is the clamp (R160). -/
theorem sat24_toInt (n : Int) : (sat24 n).toInt = clamp n := by
  unfold sat24 clamp
  split
  · rw [show (0x800000#24).toInt = -8388608 by decide]; omega
  · split
    · rw [show (0x7FFFFF#24).toInt = 8388607 by decide]; omega
    · rw [toInt_ofInt24 (by omega) (by omega)]; omega

/-- A word is what the clamp of its own value is. -/
theorem clamp_word (v : Word) : clamp v.toInt = v.toInt := by
  have := word_bounds v
  unfold clamp
  omega

/-- Saturating add (R161). -/
theorem satadd_toInt (a b : Int) : (satadd a b).toInt = clamp (a + b) := sat24_toInt _

/-- Saturating subtract (R162). -/
theorem satsub_toInt (a b : Int) : (satsub a b).toInt = clamp (a - b) := sat24_toInt _

/-- Saturating absolute value (R163). -/
theorem abs24_toInt (a : Int) : (abs24 a).toInt = clamp |a| := by
  unfold abs24
  rw [sat24_toInt]
  congr 1
  split <;> [rw [abs_of_neg (by omega)]; rw [abs_of_nonneg (by omega)]]

/-- Rounding is floor division (R165). -/
theorem rnd_eq (mode : Rounding) (x : Int) (f : Nat) : rnd mode x f = rounded mode x f := by
  unfold rnd rounded
  cases mode <;> rw [Int.fdiv_eq_ediv_of_nonneg _ (by positivity)]

/-- Saturating multiply (R164). -/
theorem mul_toInt (mode : Rounding) (a c : Int) (f : Nat) :
    (mul mode a c f).toInt = product mode a c f := by
  unfold mul product
  rw [sat24_toInt, rnd_eq]

end Sys2Proof.Laws
end

