-- ==== Sys2Proof/Laws/Decode.lean ====
section
/-! SUPPORT. What the decoder's fields read from an encoded word: a placed field is read back whole,
and a field of other bits reads nothing of it. -/

namespace Sys2Proof.Laws

/-- A field reads the disjunction of what it reads of the parts. -/
@[simp] theorem field_or (x y : Word32) (lo n : Nat) :
    (x ||| y).extractLsb' lo n = x.extractLsb' lo n ||| y.extractLsb' lo n := by
  apply BitVec.eq_of_getLsbD_eq
  intro i _
  simp [BitVec.getLsbD_extractLsb']
  cases decide (i < n) <;> simp

/-- A placed field, bit by bit. -/
theorem getLsbD_place {n : Nat} (lo : Nat) (x : BitVec n) (i : Nat) :
    (place lo x).getLsbD i = (decide (i < 32) && decide (lo ≤ i) && x.getLsbD (i - lo)) := by
  unfold place
  simp only [BitVec.getLsbD_shiftLeft, BitVec.getLsbD_setWidth]
  by_cases h : i < 32
  · have h3 : i - lo < 32 := by omega
    by_cases h2 : lo ≤ i
    · simp [h, h2, h3, show ¬ i < lo by omega]
    · simp [h, h2, show i < lo by omega]
  · simp [h]

/-- A placed field, bit by bit, in the spelling that simp gives a bit at a literal position. -/
theorem getElem_place {n : Nat} (lo : Nat) (x : BitVec n) (i : Nat) (h : i < 32) :
    (place lo x)[i] = (decide (lo ≤ i) && x.getLsbD (i - lo)) := by
  rw [← BitVec.getLsbD_eq_getElem, getLsbD_place]
  simp [h]

/-- A placed field is read back. -/
theorem field_place_same {n : Nat} (lo : Nat) (x : BitVec n) (h : lo + n ≤ 32) :
    (place lo x).extractLsb' lo n = x := by
  apply BitVec.eq_of_getLsbD_eq
  intro i hi
  simp only [BitVec.getLsbD_extractLsb', getLsbD_place]
  simp [hi]; omega

/-- A field below a placed one reads 0 of it. -/
theorem field_place_below {n : Nat} (lo : Nat) (x : BitVec n) (lo' n' : Nat) (h : lo' + n' ≤ lo) :
    (place lo x).extractLsb' lo' n' = 0#n' := by
  apply BitVec.eq_of_getLsbD_eq
  intro i hi
  simp only [BitVec.getLsbD_extractLsb', getLsbD_place]
  simp; omega

/-- A field above a placed one reads 0 of it. -/
theorem field_place_above {n : Nat} (lo : Nat) (x : BitVec n) (lo' n' : Nat) (h : lo + n ≤ lo') :
    (place lo x).extractLsb' lo' n' = 0#n' := by
  apply BitVec.eq_of_getLsbD_eq
  intro i hi
  simp only [BitVec.getLsbD_extractLsb', getLsbD_place]
  simp
  intros
  exact BitVec.getLsbD_of_ge _ _ (by omega)

/-- A field as a number. -/
theorem field_toNat {n : Nat} (x : BitVec n) (lo k : Nat) :
    (x.extractLsb' lo k).toNat = x.toNat / 2 ^ lo % 2 ^ k := by
  simp [BitVec.extractLsb'_toNat, Nat.shiftRight_eq_div_pow]

/-- Four bytes put together, most significant first (R124). -/
theorem append4_toNat (b0 b1 b2 b3 : Byte) :
    (b0 ++ b1 ++ b2 ++ b3 : Word32).toNat
      = b0.toNat * 16777216 + b1.toNat * 65536 + b2.toNat * 256 + b3.toNat := by
  rw [BitVec.toNat_append, BitVec.toNat_append, BitVec.toNat_append]
  have := b1.isLt
  have := b2.isLt
  have := b3.isLt
  rw [← Nat.shiftLeft_add_eq_or_of_lt (by assumption),
    ← Nat.shiftLeft_add_eq_or_of_lt (by assumption), ← Nat.shiftLeft_add_eq_or_of_lt (by assumption)]
  simp only [Nat.shiftLeft_eq]
  ring

/-- The address of every implemented register reads back as that register (R29). -/
@[simp] theorem ofAddr?_addr (r : Reg) : Reg.ofAddr? r.addr = some r := by
  cases r with
  | gen k => revert k; decide
  | _ => rfl

/-- A select bit reads back as the oscillator. -/
@[simp] theorem ofBit_bit (n : Osc) : Osc.ofBit n.bit = n := by cases n <;> rfl

/-- A CHO select reads back as the oscillator. -/
@[simp] theorem ofBits_kind_number (o : Lfo) : Lfo.ofBits o.kind o.number.bit = o := by
  rcases o with ⟨⟨⟩⟩ | ⟨⟨⟩⟩ <;> rfl

/-! ### Machine instructions (R121, R136) -/

/-- A machine instruction assembles to itself. -/
@[simp] theorem instr_machine (i : MachineInstr) : i.instr.machine = i := by cases i <;> rfl

/-- A pseudo-instruction has its expansion's word. -/
@[simp] theorem encode_machine (i : Instr) : encode i.machine.instr = encode i := by
  cases i with
  | clr => decide
  | not => decide
  | absa => decide
  | nop => decide
  | ldax r => simp [Instr.machine, MachineInstr.instr, encode, encodeR, place]
  | jmp n => simp [Instr.machine, MachineInstr.instr, encode, SkpCond.place, place]
  | _ => rfl

/-- A pseudo-instruction's expansion keeps the side conditions of R120. -/
@[simp] theorem wellFormed_machine (i : Instr) : i.machine.instr.wellFormed = i.wellFormed := by
  cases i <;> rfl

end Sys2Proof.Laws
end

