-- ==== Sys2Proof/Laws/Memory.lean ====
section
/-! SUPPORT. The laws of the sparse memories: read after write, every other cell unchanged, and the
canonical form kept by every operation. -/

namespace Sys2Proof.Laws

open Sys2Proof.Machine

variable {w : Nat} {d : BitVec w} {bound : Nat}

/-- An address below the first listed one reads as unlisted. -/
theorem read_below {m : Memory w} {lo a : Nat} (h : Memory.wfFrom d bound lo m = true) (ha : a < lo) :
    Memory.read d m a = d := by
  induction m generalizing lo with
  | nil => rfl
  | cons e m ih =>
    obtain ⟨b, x⟩ := e
    simp only [Memory.wfFrom, Bool.and_eq_true, decide_eq_true_eq] at h
    obtain ⟨⟨⟨h1, _⟩, _⟩, h4⟩ := h
    rw [Memory.read, if_neg (by omega), ih h4 (by omega)]

/-- A cell written reads as the value written. -/
theorem read_write_same {m : Memory w} {lo a : Nat} (v : BitVec w)
    (h : Memory.wfFrom d bound lo m = true) : Memory.read d (Memory.write d m a v) a = v := by
  induction m generalizing lo with
  | nil => simp only [Memory.write]; split <;> simp_all [Memory.read]
  | cons e m ih =>
    obtain ⟨b, x⟩ := e
    simp only [Memory.wfFrom, Bool.and_eq_true, decide_eq_true_eq] at h
    obtain ⟨⟨⟨h1, _⟩, _⟩, h4⟩ := h
    rcases Nat.lt_trichotomy a b with hab | hab | hab
    · by_cases hv : v = d
      · simp [Memory.write, hab, hv, Memory.read, show b ≠ a by omega,
          read_below h4 (show a < b + 1 by omega)]
      · simp [Memory.write, hab, hv, Memory.read]
    · subst hab
      by_cases hv : v = d
      · simp [Memory.write, hv, read_below h4 (show a < a + 1 by omega)]
      · simp [Memory.write, hv, Memory.read]
    · rw [Memory.write, if_neg (by omega), if_neg (by omega), Memory.read, if_neg (by omega)]
      exact ih h4

/-- Every other cell keeps its value. -/
theorem read_write_other {m : Memory w} {a b : Nat} (v : BitVec w) (h : b ≠ a) :
    Memory.read d (Memory.write d m a v) b = Memory.read d m b := by
  induction m with
  | nil => simp only [Memory.write]; split <;> simp [Memory.read, Ne.symm h]
  | cons e m ih =>
    obtain ⟨c, x⟩ := e
    simp only [Memory.write]
    split
    · split
      · rfl
      · simp [Memory.read, Ne.symm h]
    · split
      · rename_i hac
        subst hac
        split <;> simp [Memory.read, Ne.symm h]
      · simp only [Memory.read, ih]

/-- A write keeps the canonical form. -/
theorem wfFrom_write {m : Memory w} {lo a : Nat} (v : BitVec w)
    (h : Memory.wfFrom d bound lo m = true) (hlo : lo ≤ a) (hb : a < bound) :
    Memory.wfFrom d bound lo (Memory.write d m a v) = true := by
  induction m generalizing lo with
  | nil => simp only [Memory.write]; split <;> simp_all [Memory.wfFrom]
  | cons e m ih =>
    obtain ⟨c, x⟩ := e
    have h' := h
    simp only [Memory.wfFrom, Bool.and_eq_true, decide_eq_true_eq] at h
    obtain ⟨⟨⟨h1, h2⟩, h3⟩, h4⟩ := h
    simp only [Memory.write]
    split
    · split
      · exact h'
      · simp_all [Memory.wfFrom]
    · split
      · split
        · rename_i hac _
          subst hac
          clear ih h'
          cases m with
          | nil => rfl
          | cons e m =>
            obtain ⟨b, y⟩ := e
            simp only [Memory.wfFrom, Bool.and_eq_true, decide_eq_true_eq] at h4 ⊢
            obtain ⟨⟨⟨p1, p2⟩, p3⟩, p4⟩ := h4
            exact ⟨⟨⟨by omega, p2⟩, p3⟩, p4⟩
        · simp_all [Memory.wfFrom]
      · simp only [Memory.wfFrom, Bool.and_eq_true, decide_eq_true_eq]
        exact ⟨⟨⟨h1, h2⟩, h3⟩, ih h4 (by omega)⟩

/-- A write inside the memory keeps the canonical form. -/
theorem wf_write {m : Memory w} {a : Nat} (v : BitVec w) (h : Memory.wf d bound m = true)
    (hb : a < bound) : Memory.wf d bound (Memory.write d m a v) = true :=
  wfFrom_write v h (Nat.zero_le a) hb

/-- The slot of a logical address exists (R65). -/
theorem physSlot_lt (wp a : BitVec 15) : physSlot wp a < 32768 := (wp - a).isLt

/-- The commit of a queue keeps the canonical form of the delay memory. -/
theorem wf_commitWrites (wp : BitVec 15) (wq : List (BitVec 15 × Word)) {m : Memory 24}
    (h : Memory.wf 0 32768 m = true) : Memory.wf 0 32768 (commitWrites wp wq m) = true := by
  induction wq generalizing m with
  | nil => exact h
  | cons e wq ih => exact ih (wf_write e.2 h (physSlot_lt wp e.1))

/-- The cells of a program are in canonical form, at its own slots. -/
theorem wfFrom_programCells (ws : List Word32) (i : Nat) {n : Nat} (h : i + ws.length ≤ n) :
    Memory.wfFrom padWord n i (programCells i ws) = true := by
  induction ws generalizing i with
  | nil => rfl
  | cons w ws ih =>
    have hn : i + 1 + ws.length ≤ n := by simp only [List.length_cons] at h; omega
    simp only [programCells]
    split
    · have := ih (i + 1) hn
      cases hc : programCells (i + 1) ws with
      | nil => rfl
      | cons e m =>
        obtain ⟨b, y⟩ := e
        rw [hc] at this
        simp only [Memory.wfFrom, Bool.and_eq_true, decide_eq_true_eq] at this ⊢
        exact ⟨⟨⟨by omega, this.1.1.2⟩, this.1.2⟩, this.2⟩
    · simp only [Memory.wfFrom, Bool.and_eq_true, decide_eq_true_eq]
      exact ⟨⟨⟨Nat.le_refl i, by simp only [List.length_cons] at h; omega⟩, by assumption⟩, ih (i + 1) hn⟩

/-- A program's cells read as its words, and as the pad word outside it (R22). -/
theorem read_programCells (ws : List Word32) (i a : Nat) :
    Memory.read padWord (programCells i ws) a =
      if i ≤ a then ws.getD (a - i) padWord else padWord := by
  induction ws generalizing i with
  | nil => simp [programCells, Memory.read]
  | cons w ws ih =>
    simp only [programCells]
    by_cases hia : i = a
    · subst hia
      split
      · rw [ih, if_neg (by omega)]; simp_all
      · simp [Memory.read]
    · have hrest : Memory.read padWord (programCells (i + 1) ws) a =
          if i ≤ a then (w :: ws).getD (a - i) padWord else padWord := by
        rw [ih]
        by_cases h : i ≤ a
        · rw [if_pos h, if_pos (by omega), show a - i = (a - (i + 1)) + 1 by omega,
            List.getD_cons_succ]
        · rw [if_neg h, if_neg (by omega)]
      split
      · exact hrest
      · rw [Memory.read, if_neg hia]; exact hrest

end Sys2Proof.Laws
end

