-- ==== Sys2Proof/Laws/State.lean ====
section
/-! SUPPORT. The small lemmas of the state's updates: one per field per update, so that no proof
unfolds a record update. -/

namespace Sys2Proof.Laws

open Sys2Proof.Machine

/-! ### `setAcc` -/

@[simp] theorem setAcc_mode (s : State) (v : Word) : (s.setAcc v).mode = s.mode := rfl
@[simp] theorem setAcc_prog (s : State) (v : Word) : (s.setAcc v).prog = s.prog := rfl
@[simp] theorem setAcc_plen (s : State) (v : Word) : (s.setAcc v).plen = s.plen := rfl
@[simp] theorem setAcc_pc (s : State) (v : Word) : (s.setAcc v).pc = s.pc := rfl
@[simp] theorem setAcc_acc (s : State) (v : Word) : (s.setAcc v).acc = v := rfl
@[simp] theorem setAcc_pacc (s : State) (v : Word) : (s.setAcc v).pacc = s.pacc := rfl
@[simp] theorem setAcc_lr (s : State) (v : Word) : (s.setAcc v).lr = s.lr := rfl
@[simp] theorem setAcc_run (s : State) (v : Word) : (s.setAcc v).run = s.run := rfl
@[simp] theorem setAcc_regs (s : State) (v : Word) : (s.setAcc v).regs = s.regs := rfl
@[simp] theorem setAcc_dram (s : State) (v : Word) : (s.setAcc v).dram = s.dram := rfl
@[simp] theorem setAcc_wp (s : State) (v : Word) : (s.setAcc v).wp = s.wp := rfl
@[simp] theorem setAcc_wq (s : State) (v : Word) : (s.setAcc v).wq = s.wq := rfl
@[simp] theorem setAcc_sph0 (s : State) (v : Word) : (s.setAcc v).sph0 = s.sph0 := rfl
@[simp] theorem setAcc_sph1 (s : State) (v : Word) : (s.setAcc v).sph1 = s.sph1 := rfl
@[simp] theorem setAcc_rph0 (s : State) (v : Word) : (s.setAcc v).rph0 = s.rph0 := rfl
@[simp] theorem setAcc_rph1 (s : State) (v : Word) : (s.setAcc v).rph1 = s.rph1 := rfl
@[simp] theorem setAcc_sinv0 (s : State) (v : Word) : (s.setAcc v).sinv0 = s.sinv0 := rfl
@[simp] theorem setAcc_sinv1 (s : State) (v : Word) : (s.setAcc v).sinv1 = s.sinv1 := rfl
@[simp] theorem setAcc_cosv0 (s : State) (v : Word) : (s.setAcc v).cosv0 = s.cosv0 := rfl
@[simp] theorem setAcc_cosv1 (s : State) (v : Word) : (s.setAcc v).cosv1 = s.cosv1 := rfl
@[simp] theorem setAcc_rmpv0 (s : State) (v : Word) : (s.setAcc v).rmpv0 = s.rmpv0 := rfl
@[simp] theorem setAcc_rmpv1 (s : State) (v : Word) : (s.setAcc v).rmpv1 = s.rmpv1 := rfl
@[simp] theorem setAcc_rmpc0 (s : State) (v : Word) : (s.setAcc v).rmpc0 = s.rmpc0 := rfl
@[simp] theorem setAcc_rmpc1 (s : State) (v : Word) : (s.setAcc v).rmpc1 = s.rmpc1 := rfl
@[simp] theorem setAcc_phase (s : State) (v : Word) : (s.setAcc v).phase = s.phase := rfl
@[simp] theorem setAcc_pending (s : State) (v : Word) : (s.setAcc v).pending = s.pending := rfl
@[simp] theorem setAcc_outL (s : State) (v : Word) : (s.setAcc v).outL = s.outL := rfl
@[simp] theorem setAcc_outR (s : State) (v : Word) : (s.setAcc v).outR = s.outR := rfl
@[simp] theorem setAcc_loadOk (s : State) (v : Word) : (s.setAcc v).loadOk = s.loadOk := rfl
@[simp] theorem setAcc_cfg (s : State) (v : Word) : (s.setAcc v).cfg = s.cfg := rfl

@[simp] theorem setAcc_readReg (s : State) (v : Word) (q : Reg) :
    (s.setAcc v).readReg q = s.readReg q := rfl
@[simp] theorem setAcc_memRead (s : State) (v : Word) (b : BitVec 15) :
    (s.setAcc v).memRead b = s.memRead b := rfl
@[simp] theorem setAcc_dramSlot (s : State) (v : Word) (i : Nat) :
    (s.setAcc v).dramSlot i = s.dramSlot i := rfl
@[simp] theorem setAcc_progWord (s : State) (v : Word) (i : Nat) :
    (s.setAcc v).progWord i = s.progWord i := rfl

/-! ### `setLr` -/

@[simp] theorem setLr_mode (s : State) (v : Word) : (s.setLr v).mode = s.mode := rfl
@[simp] theorem setLr_prog (s : State) (v : Word) : (s.setLr v).prog = s.prog := rfl
@[simp] theorem setLr_plen (s : State) (v : Word) : (s.setLr v).plen = s.plen := rfl
@[simp] theorem setLr_pc (s : State) (v : Word) : (s.setLr v).pc = s.pc := rfl
@[simp] theorem setLr_acc (s : State) (v : Word) : (s.setLr v).acc = s.acc := rfl
@[simp] theorem setLr_pacc (s : State) (v : Word) : (s.setLr v).pacc = s.pacc := rfl
@[simp] theorem setLr_lr (s : State) (v : Word) : (s.setLr v).lr = v := rfl
@[simp] theorem setLr_run (s : State) (v : Word) : (s.setLr v).run = s.run := rfl
@[simp] theorem setLr_regs (s : State) (v : Word) : (s.setLr v).regs = s.regs := rfl
@[simp] theorem setLr_dram (s : State) (v : Word) : (s.setLr v).dram = s.dram := rfl
@[simp] theorem setLr_wp (s : State) (v : Word) : (s.setLr v).wp = s.wp := rfl
@[simp] theorem setLr_wq (s : State) (v : Word) : (s.setLr v).wq = s.wq := rfl
@[simp] theorem setLr_sph0 (s : State) (v : Word) : (s.setLr v).sph0 = s.sph0 := rfl
@[simp] theorem setLr_sph1 (s : State) (v : Word) : (s.setLr v).sph1 = s.sph1 := rfl
@[simp] theorem setLr_rph0 (s : State) (v : Word) : (s.setLr v).rph0 = s.rph0 := rfl
@[simp] theorem setLr_rph1 (s : State) (v : Word) : (s.setLr v).rph1 = s.rph1 := rfl
@[simp] theorem setLr_sinv0 (s : State) (v : Word) : (s.setLr v).sinv0 = s.sinv0 := rfl
@[simp] theorem setLr_sinv1 (s : State) (v : Word) : (s.setLr v).sinv1 = s.sinv1 := rfl
@[simp] theorem setLr_cosv0 (s : State) (v : Word) : (s.setLr v).cosv0 = s.cosv0 := rfl
@[simp] theorem setLr_cosv1 (s : State) (v : Word) : (s.setLr v).cosv1 = s.cosv1 := rfl
@[simp] theorem setLr_rmpv0 (s : State) (v : Word) : (s.setLr v).rmpv0 = s.rmpv0 := rfl
@[simp] theorem setLr_rmpv1 (s : State) (v : Word) : (s.setLr v).rmpv1 = s.rmpv1 := rfl
@[simp] theorem setLr_rmpc0 (s : State) (v : Word) : (s.setLr v).rmpc0 = s.rmpc0 := rfl
@[simp] theorem setLr_rmpc1 (s : State) (v : Word) : (s.setLr v).rmpc1 = s.rmpc1 := rfl
@[simp] theorem setLr_phase (s : State) (v : Word) : (s.setLr v).phase = s.phase := rfl
@[simp] theorem setLr_pending (s : State) (v : Word) : (s.setLr v).pending = s.pending := rfl
@[simp] theorem setLr_outL (s : State) (v : Word) : (s.setLr v).outL = s.outL := rfl
@[simp] theorem setLr_outR (s : State) (v : Word) : (s.setLr v).outR = s.outR := rfl
@[simp] theorem setLr_loadOk (s : State) (v : Word) : (s.setLr v).loadOk = s.loadOk := rfl
@[simp] theorem setLr_cfg (s : State) (v : Word) : (s.setLr v).cfg = s.cfg := rfl

@[simp] theorem setLr_readReg (s : State) (v : Word) (q : Reg) :
    (s.setLr v).readReg q = s.readReg q := rfl
@[simp] theorem setLr_memRead (s : State) (v : Word) (b : BitVec 15) :
    (s.setLr v).memRead b = s.memRead b := rfl
@[simp] theorem setLr_dramSlot (s : State) (v : Word) (i : Nat) :
    (s.setLr v).dramSlot i = s.dramSlot i := rfl
@[simp] theorem setLr_progWord (s : State) (v : Word) (i : Nat) :
    (s.setLr v).progWord i = s.progWord i := rfl

/-! ### `writeReg` -/

@[simp] theorem writeReg_mode (s : State) (r : Reg) (v : Word) :
    (s.writeReg r v).mode = s.mode := rfl
@[simp] theorem writeReg_prog (s : State) (r : Reg) (v : Word) :
    (s.writeReg r v).prog = s.prog := rfl
@[simp] theorem writeReg_plen (s : State) (r : Reg) (v : Word) :
    (s.writeReg r v).plen = s.plen := rfl
@[simp] theorem writeReg_pc (s : State) (r : Reg) (v : Word) : (s.writeReg r v).pc = s.pc := rfl
@[simp] theorem writeReg_acc (s : State) (r : Reg) (v : Word) : (s.writeReg r v).acc = s.acc := rfl
@[simp] theorem writeReg_pacc (s : State) (r : Reg) (v : Word) :
    (s.writeReg r v).pacc = s.pacc := rfl
@[simp] theorem writeReg_lr (s : State) (r : Reg) (v : Word) : (s.writeReg r v).lr = s.lr := rfl
@[simp] theorem writeReg_run (s : State) (r : Reg) (v : Word) : (s.writeReg r v).run = s.run := rfl
@[simp] theorem writeReg_regs (s : State) (r : Reg) (v : Word) :
    (s.writeReg r v).regs = s.regs.write r v := rfl
@[simp] theorem writeReg_dram (s : State) (r : Reg) (v : Word) :
    (s.writeReg r v).dram = s.dram := rfl
@[simp] theorem writeReg_wp (s : State) (r : Reg) (v : Word) : (s.writeReg r v).wp = s.wp := rfl
@[simp] theorem writeReg_wq (s : State) (r : Reg) (v : Word) : (s.writeReg r v).wq = s.wq := rfl
@[simp] theorem writeReg_sph0 (s : State) (r : Reg) (v : Word) :
    (s.writeReg r v).sph0 = s.sph0 := rfl
@[simp] theorem writeReg_sph1 (s : State) (r : Reg) (v : Word) :
    (s.writeReg r v).sph1 = s.sph1 := rfl
@[simp] theorem writeReg_rph0 (s : State) (r : Reg) (v : Word) :
    (s.writeReg r v).rph0 = s.rph0 := rfl
@[simp] theorem writeReg_rph1 (s : State) (r : Reg) (v : Word) :
    (s.writeReg r v).rph1 = s.rph1 := rfl
@[simp] theorem writeReg_sinv0 (s : State) (r : Reg) (v : Word) :
    (s.writeReg r v).sinv0 = s.sinv0 := rfl
@[simp] theorem writeReg_sinv1 (s : State) (r : Reg) (v : Word) :
    (s.writeReg r v).sinv1 = s.sinv1 := rfl
@[simp] theorem writeReg_cosv0 (s : State) (r : Reg) (v : Word) :
    (s.writeReg r v).cosv0 = s.cosv0 := rfl
@[simp] theorem writeReg_cosv1 (s : State) (r : Reg) (v : Word) :
    (s.writeReg r v).cosv1 = s.cosv1 := rfl
@[simp] theorem writeReg_rmpv0 (s : State) (r : Reg) (v : Word) :
    (s.writeReg r v).rmpv0 = s.rmpv0 := rfl
@[simp] theorem writeReg_rmpv1 (s : State) (r : Reg) (v : Word) :
    (s.writeReg r v).rmpv1 = s.rmpv1 := rfl
@[simp] theorem writeReg_rmpc0 (s : State) (r : Reg) (v : Word) :
    (s.writeReg r v).rmpc0 = s.rmpc0 := rfl
@[simp] theorem writeReg_rmpc1 (s : State) (r : Reg) (v : Word) :
    (s.writeReg r v).rmpc1 = s.rmpc1 := rfl
@[simp] theorem writeReg_phase (s : State) (r : Reg) (v : Word) :
    (s.writeReg r v).phase = s.phase := rfl
@[simp] theorem writeReg_pending (s : State) (r : Reg) (v : Word) :
    (s.writeReg r v).pending = s.pending := rfl
@[simp] theorem writeReg_outL (s : State) (r : Reg) (v : Word) :
    (s.writeReg r v).outL = s.outL := rfl
@[simp] theorem writeReg_outR (s : State) (r : Reg) (v : Word) :
    (s.writeReg r v).outR = s.outR := rfl
@[simp] theorem writeReg_loadOk (s : State) (r : Reg) (v : Word) :
    (s.writeReg r v).loadOk = s.loadOk := rfl
@[simp] theorem writeReg_cfg (s : State) (r : Reg) (v : Word) : (s.writeReg r v).cfg = s.cfg := rfl

@[simp] theorem writeReg_memRead (s : State) (r : Reg) (v : Word) (b : BitVec 15) :
    (s.writeReg r v).memRead b = s.memRead b := rfl
@[simp] theorem writeReg_dramSlot (s : State) (r : Reg) (v : Word) (i : Nat) :
    (s.writeReg r v).dramSlot i = s.dramSlot i := rfl
@[simp] theorem writeReg_progWord (s : State) (r : Reg) (v : Word) (i : Nat) :
    (s.writeReg r v).progWord i = s.progWord i := rfl

/-! ### `memWrite` -/

@[simp] theorem memWrite_mode (s : State) (a : BitVec 15) (v : Word) :
    (s.memWrite a v).mode = s.mode := rfl
@[simp] theorem memWrite_prog (s : State) (a : BitVec 15) (v : Word) :
    (s.memWrite a v).prog = s.prog := rfl
@[simp] theorem memWrite_plen (s : State) (a : BitVec 15) (v : Word) :
    (s.memWrite a v).plen = s.plen := rfl
@[simp] theorem memWrite_pc (s : State) (a : BitVec 15) (v : Word) :
    (s.memWrite a v).pc = s.pc := rfl
@[simp] theorem memWrite_acc (s : State) (a : BitVec 15) (v : Word) :
    (s.memWrite a v).acc = s.acc := rfl
@[simp] theorem memWrite_pacc (s : State) (a : BitVec 15) (v : Word) :
    (s.memWrite a v).pacc = s.pacc := rfl
@[simp] theorem memWrite_lr (s : State) (a : BitVec 15) (v : Word) :
    (s.memWrite a v).lr = s.lr := rfl
@[simp] theorem memWrite_run (s : State) (a : BitVec 15) (v : Word) :
    (s.memWrite a v).run = s.run := rfl
@[simp] theorem memWrite_regs (s : State) (a : BitVec 15) (v : Word) :
    (s.memWrite a v).regs = s.regs := rfl
@[simp] theorem memWrite_dram (s : State) (a : BitVec 15) (v : Word) :
    (s.memWrite a v).dram = s.dram := rfl
@[simp] theorem memWrite_wp (s : State) (a : BitVec 15) (v : Word) :
    (s.memWrite a v).wp = s.wp := rfl
@[simp] theorem memWrite_wq (s : State) (a : BitVec 15) (v : Word) :
    (s.memWrite a v).wq = s.wq ++ [(a, v)] := rfl
@[simp] theorem memWrite_sph0 (s : State) (a : BitVec 15) (v : Word) :
    (s.memWrite a v).sph0 = s.sph0 := rfl
@[simp] theorem memWrite_sph1 (s : State) (a : BitVec 15) (v : Word) :
    (s.memWrite a v).sph1 = s.sph1 := rfl
@[simp] theorem memWrite_rph0 (s : State) (a : BitVec 15) (v : Word) :
    (s.memWrite a v).rph0 = s.rph0 := rfl
@[simp] theorem memWrite_rph1 (s : State) (a : BitVec 15) (v : Word) :
    (s.memWrite a v).rph1 = s.rph1 := rfl
@[simp] theorem memWrite_sinv0 (s : State) (a : BitVec 15) (v : Word) :
    (s.memWrite a v).sinv0 = s.sinv0 := rfl
@[simp] theorem memWrite_sinv1 (s : State) (a : BitVec 15) (v : Word) :
    (s.memWrite a v).sinv1 = s.sinv1 := rfl
@[simp] theorem memWrite_cosv0 (s : State) (a : BitVec 15) (v : Word) :
    (s.memWrite a v).cosv0 = s.cosv0 := rfl
@[simp] theorem memWrite_cosv1 (s : State) (a : BitVec 15) (v : Word) :
    (s.memWrite a v).cosv1 = s.cosv1 := rfl
@[simp] theorem memWrite_rmpv0 (s : State) (a : BitVec 15) (v : Word) :
    (s.memWrite a v).rmpv0 = s.rmpv0 := rfl
@[simp] theorem memWrite_rmpv1 (s : State) (a : BitVec 15) (v : Word) :
    (s.memWrite a v).rmpv1 = s.rmpv1 := rfl
@[simp] theorem memWrite_rmpc0 (s : State) (a : BitVec 15) (v : Word) :
    (s.memWrite a v).rmpc0 = s.rmpc0 := rfl
@[simp] theorem memWrite_rmpc1 (s : State) (a : BitVec 15) (v : Word) :
    (s.memWrite a v).rmpc1 = s.rmpc1 := rfl
@[simp] theorem memWrite_phase (s : State) (a : BitVec 15) (v : Word) :
    (s.memWrite a v).phase = s.phase := rfl
@[simp] theorem memWrite_pending (s : State) (a : BitVec 15) (v : Word) :
    (s.memWrite a v).pending = s.pending := rfl
@[simp] theorem memWrite_outL (s : State) (a : BitVec 15) (v : Word) :
    (s.memWrite a v).outL = s.outL := rfl
@[simp] theorem memWrite_outR (s : State) (a : BitVec 15) (v : Word) :
    (s.memWrite a v).outR = s.outR := rfl
@[simp] theorem memWrite_loadOk (s : State) (a : BitVec 15) (v : Word) :
    (s.memWrite a v).loadOk = s.loadOk := rfl
@[simp] theorem memWrite_cfg (s : State) (a : BitVec 15) (v : Word) :
    (s.memWrite a v).cfg = s.cfg := rfl

@[simp] theorem memWrite_readReg (s : State) (a : BitVec 15) (v : Word) (q : Reg) :
    (s.memWrite a v).readReg q = s.readReg q := rfl
@[simp] theorem memWrite_memRead (s : State) (a : BitVec 15) (v : Word) (b : BitVec 15) :
    (s.memWrite a v).memRead b = s.memRead b := rfl
@[simp] theorem memWrite_dramSlot (s : State) (a : BitVec 15) (v : Word) (i : Nat) :
    (s.memWrite a v).dramSlot i = s.dramSlot i := rfl
@[simp] theorem memWrite_progWord (s : State) (a : BitVec 15) (v : Word) (i : Nat) :
    (s.memWrite a v).progWord i = s.progWord i := rfl

/-! ### `writePair` -/

@[simp] theorem writePair_mode (s : State) (r q : Reg) (v w : Word) :
    (s.writePair r q v w).mode = s.mode := rfl
@[simp] theorem writePair_prog (s : State) (r q : Reg) (v w : Word) :
    (s.writePair r q v w).prog = s.prog := rfl
@[simp] theorem writePair_plen (s : State) (r q : Reg) (v w : Word) :
    (s.writePair r q v w).plen = s.plen := rfl
@[simp] theorem writePair_pc (s : State) (r q : Reg) (v w : Word) :
    (s.writePair r q v w).pc = s.pc := rfl
@[simp] theorem writePair_acc (s : State) (r q : Reg) (v w : Word) :
    (s.writePair r q v w).acc = s.acc := rfl
@[simp] theorem writePair_pacc (s : State) (r q : Reg) (v w : Word) :
    (s.writePair r q v w).pacc = s.pacc := rfl
@[simp] theorem writePair_lr (s : State) (r q : Reg) (v w : Word) :
    (s.writePair r q v w).lr = s.lr := rfl
@[simp] theorem writePair_run (s : State) (r q : Reg) (v w : Word) :
    (s.writePair r q v w).run = s.run := rfl
@[simp] theorem writePair_regs (s : State) (r q : Reg) (v w : Word) :
    (s.writePair r q v w).regs = (s.regs.write r v).write q w := rfl
@[simp] theorem writePair_dram (s : State) (r q : Reg) (v w : Word) :
    (s.writePair r q v w).dram = s.dram := rfl
@[simp] theorem writePair_wp (s : State) (r q : Reg) (v w : Word) :
    (s.writePair r q v w).wp = s.wp := rfl
@[simp] theorem writePair_wq (s : State) (r q : Reg) (v w : Word) :
    (s.writePair r q v w).wq = s.wq := rfl
@[simp] theorem writePair_sph0 (s : State) (r q : Reg) (v w : Word) :
    (s.writePair r q v w).sph0 = s.sph0 := rfl
@[simp] theorem writePair_sph1 (s : State) (r q : Reg) (v w : Word) :
    (s.writePair r q v w).sph1 = s.sph1 := rfl
@[simp] theorem writePair_rph0 (s : State) (r q : Reg) (v w : Word) :
    (s.writePair r q v w).rph0 = s.rph0 := rfl
@[simp] theorem writePair_rph1 (s : State) (r q : Reg) (v w : Word) :
    (s.writePair r q v w).rph1 = s.rph1 := rfl
@[simp] theorem writePair_sinv0 (s : State) (r q : Reg) (v w : Word) :
    (s.writePair r q v w).sinv0 = s.sinv0 := rfl
@[simp] theorem writePair_sinv1 (s : State) (r q : Reg) (v w : Word) :
    (s.writePair r q v w).sinv1 = s.sinv1 := rfl
@[simp] theorem writePair_cosv0 (s : State) (r q : Reg) (v w : Word) :
    (s.writePair r q v w).cosv0 = s.cosv0 := rfl
@[simp] theorem writePair_cosv1 (s : State) (r q : Reg) (v w : Word) :
    (s.writePair r q v w).cosv1 = s.cosv1 := rfl
@[simp] theorem writePair_rmpv0 (s : State) (r q : Reg) (v w : Word) :
    (s.writePair r q v w).rmpv0 = s.rmpv0 := rfl
@[simp] theorem writePair_rmpv1 (s : State) (r q : Reg) (v w : Word) :
    (s.writePair r q v w).rmpv1 = s.rmpv1 := rfl
@[simp] theorem writePair_rmpc0 (s : State) (r q : Reg) (v w : Word) :
    (s.writePair r q v w).rmpc0 = s.rmpc0 := rfl
@[simp] theorem writePair_rmpc1 (s : State) (r q : Reg) (v w : Word) :
    (s.writePair r q v w).rmpc1 = s.rmpc1 := rfl
@[simp] theorem writePair_phase (s : State) (r q : Reg) (v w : Word) :
    (s.writePair r q v w).phase = s.phase := rfl
@[simp] theorem writePair_pending (s : State) (r q : Reg) (v w : Word) :
    (s.writePair r q v w).pending = s.pending := rfl
@[simp] theorem writePair_outL (s : State) (r q : Reg) (v w : Word) :
    (s.writePair r q v w).outL = s.outL := rfl
@[simp] theorem writePair_outR (s : State) (r q : Reg) (v w : Word) :
    (s.writePair r q v w).outR = s.outR := rfl
@[simp] theorem writePair_loadOk (s : State) (r q : Reg) (v w : Word) :
    (s.writePair r q v w).loadOk = s.loadOk := rfl
@[simp] theorem writePair_cfg (s : State) (r q : Reg) (v w : Word) :
    (s.writePair r q v w).cfg = s.cfg := rfl

@[simp] theorem writePair_memRead (s : State) (r q : Reg) (v w : Word) (b : BitVec 15) :
    (s.writePair r q v w).memRead b = s.memRead b := rfl
@[simp] theorem writePair_dramSlot (s : State) (r q : Reg) (v w : Word) (i : Nat) :
    (s.writePair r q v w).dramSlot i = s.dramSlot i := rfl
@[simp] theorem writePair_progWord (s : State) (r q : Reg) (v w : Word) (i : Nat) :
    (s.writePair r q v w).progWord i = s.progWord i := rfl

/-! ### `advance` -/

@[simp] theorem advance_mode (s : State) : s.advance.mode = s.mode := rfl
@[simp] theorem advance_prog (s : State) : s.advance.prog = s.prog := rfl
@[simp] theorem advance_plen (s : State) : s.advance.plen = s.plen := rfl
@[simp] theorem advance_pc (s : State) : s.advance.pc = s.pc + 1 := rfl
@[simp] theorem advance_acc (s : State) : s.advance.acc = s.acc := rfl
@[simp] theorem advance_pacc (s : State) : s.advance.pacc = s.pacc := rfl
@[simp] theorem advance_lr (s : State) : s.advance.lr = s.lr := rfl
@[simp] theorem advance_run (s : State) : s.advance.run = s.run := rfl
@[simp] theorem advance_regs (s : State) : s.advance.regs = s.regs := rfl
@[simp] theorem advance_dram (s : State) : s.advance.dram = s.dram := rfl
@[simp] theorem advance_wp (s : State) : s.advance.wp = s.wp := rfl
@[simp] theorem advance_wq (s : State) : s.advance.wq = s.wq := rfl
@[simp] theorem advance_sph0 (s : State) : s.advance.sph0 = s.sph0 := rfl
@[simp] theorem advance_sph1 (s : State) : s.advance.sph1 = s.sph1 := rfl
@[simp] theorem advance_rph0 (s : State) : s.advance.rph0 = s.rph0 := rfl
@[simp] theorem advance_rph1 (s : State) : s.advance.rph1 = s.rph1 := rfl
@[simp] theorem advance_sinv0 (s : State) : s.advance.sinv0 = s.sinv0 := rfl
@[simp] theorem advance_sinv1 (s : State) : s.advance.sinv1 = s.sinv1 := rfl
@[simp] theorem advance_cosv0 (s : State) : s.advance.cosv0 = s.cosv0 := rfl
@[simp] theorem advance_cosv1 (s : State) : s.advance.cosv1 = s.cosv1 := rfl
@[simp] theorem advance_rmpv0 (s : State) : s.advance.rmpv0 = s.rmpv0 := rfl
@[simp] theorem advance_rmpv1 (s : State) : s.advance.rmpv1 = s.rmpv1 := rfl
@[simp] theorem advance_rmpc0 (s : State) : s.advance.rmpc0 = s.rmpc0 := rfl
@[simp] theorem advance_rmpc1 (s : State) : s.advance.rmpc1 = s.rmpc1 := rfl
@[simp] theorem advance_phase (s : State) : s.advance.phase = s.phase := rfl
@[simp] theorem advance_pending (s : State) : s.advance.pending = s.pending := rfl
@[simp] theorem advance_outL (s : State) : s.advance.outL = s.outL := rfl
@[simp] theorem advance_outR (s : State) : s.advance.outR = s.outR := rfl
@[simp] theorem advance_loadOk (s : State) : s.advance.loadOk = s.loadOk := rfl
@[simp] theorem advance_cfg (s : State) : s.advance.cfg = s.cfg := rfl

@[simp] theorem advance_readReg (s : State) (q : Reg) :
    s.advance.readReg q = s.readReg q := rfl
@[simp] theorem advance_memRead (s : State) (b : BitVec 15) :
    s.advance.memRead b = s.memRead b := rfl
@[simp] theorem advance_dramSlot (s : State) (i : Nat) :
    s.advance.dramSlot i = s.dramSlot i := rfl
@[simp] theorem advance_progWord (s : State) (i : Nat) :
    s.advance.progWord i = s.progWord i := rfl

/-! ### `skip` -/

@[simp] theorem skip_mode (s : State) (n : BitVec 6) : (s.skip n).mode = s.mode := rfl
@[simp] theorem skip_prog (s : State) (n : BitVec 6) : (s.skip n).prog = s.prog := rfl
@[simp] theorem skip_plen (s : State) (n : BitVec 6) : (s.skip n).plen = s.plen := rfl
@[simp] theorem skip_pc (s : State) (n : BitVec 6) : (s.skip n).pc = s.pc + 1 + n.setWidth 8 := rfl
@[simp] theorem skip_acc (s : State) (n : BitVec 6) : (s.skip n).acc = s.acc := rfl
@[simp] theorem skip_pacc (s : State) (n : BitVec 6) : (s.skip n).pacc = s.pacc := rfl
@[simp] theorem skip_lr (s : State) (n : BitVec 6) : (s.skip n).lr = s.lr := rfl
@[simp] theorem skip_run (s : State) (n : BitVec 6) : (s.skip n).run = s.run := rfl
@[simp] theorem skip_regs (s : State) (n : BitVec 6) : (s.skip n).regs = s.regs := rfl
@[simp] theorem skip_dram (s : State) (n : BitVec 6) : (s.skip n).dram = s.dram := rfl
@[simp] theorem skip_wp (s : State) (n : BitVec 6) : (s.skip n).wp = s.wp := rfl
@[simp] theorem skip_wq (s : State) (n : BitVec 6) : (s.skip n).wq = s.wq := rfl
@[simp] theorem skip_sph0 (s : State) (n : BitVec 6) : (s.skip n).sph0 = s.sph0 := rfl
@[simp] theorem skip_sph1 (s : State) (n : BitVec 6) : (s.skip n).sph1 = s.sph1 := rfl
@[simp] theorem skip_rph0 (s : State) (n : BitVec 6) : (s.skip n).rph0 = s.rph0 := rfl
@[simp] theorem skip_rph1 (s : State) (n : BitVec 6) : (s.skip n).rph1 = s.rph1 := rfl
@[simp] theorem skip_sinv0 (s : State) (n : BitVec 6) : (s.skip n).sinv0 = s.sinv0 := rfl
@[simp] theorem skip_sinv1 (s : State) (n : BitVec 6) : (s.skip n).sinv1 = s.sinv1 := rfl
@[simp] theorem skip_cosv0 (s : State) (n : BitVec 6) : (s.skip n).cosv0 = s.cosv0 := rfl
@[simp] theorem skip_cosv1 (s : State) (n : BitVec 6) : (s.skip n).cosv1 = s.cosv1 := rfl
@[simp] theorem skip_rmpv0 (s : State) (n : BitVec 6) : (s.skip n).rmpv0 = s.rmpv0 := rfl
@[simp] theorem skip_rmpv1 (s : State) (n : BitVec 6) : (s.skip n).rmpv1 = s.rmpv1 := rfl
@[simp] theorem skip_rmpc0 (s : State) (n : BitVec 6) : (s.skip n).rmpc0 = s.rmpc0 := rfl
@[simp] theorem skip_rmpc1 (s : State) (n : BitVec 6) : (s.skip n).rmpc1 = s.rmpc1 := rfl
@[simp] theorem skip_phase (s : State) (n : BitVec 6) : (s.skip n).phase = s.phase := rfl
@[simp] theorem skip_pending (s : State) (n : BitVec 6) : (s.skip n).pending = s.pending := rfl
@[simp] theorem skip_outL (s : State) (n : BitVec 6) : (s.skip n).outL = s.outL := rfl
@[simp] theorem skip_outR (s : State) (n : BitVec 6) : (s.skip n).outR = s.outR := rfl
@[simp] theorem skip_loadOk (s : State) (n : BitVec 6) : (s.skip n).loadOk = s.loadOk := rfl
@[simp] theorem skip_cfg (s : State) (n : BitVec 6) : (s.skip n).cfg = s.cfg := rfl

@[simp] theorem skip_readReg (s : State) (n : BitVec 6) (q : Reg) :
    (s.skip n).readReg q = s.readReg q := rfl
@[simp] theorem skip_memRead (s : State) (n : BitVec 6) (b : BitVec 15) :
    (s.skip n).memRead b = s.memRead b := rfl
@[simp] theorem skip_dramSlot (s : State) (n : BitVec 6) (i : Nat) :
    (s.skip n).dramSlot i = s.dramSlot i := rfl
@[simp] theorem skip_progWord (s : State) (n : BitVec 6) (i : Nat) :
    (s.skip n).progWord i = s.progWord i := rfl

/-! ### `setSph` -/

@[simp] theorem setSph_mode (s : State) (n : Osc) (v : BitVec 20) :
    (s.setSph n v).mode = s.mode := by cases n <;> rfl
@[simp] theorem setSph_prog (s : State) (n : Osc) (v : BitVec 20) :
    (s.setSph n v).prog = s.prog := by cases n <;> rfl
@[simp] theorem setSph_plen (s : State) (n : Osc) (v : BitVec 20) :
    (s.setSph n v).plen = s.plen := by cases n <;> rfl
@[simp] theorem setSph_pc (s : State) (n : Osc) (v : BitVec 20) :
    (s.setSph n v).pc = s.pc := by cases n <;> rfl
@[simp] theorem setSph_acc (s : State) (n : Osc) (v : BitVec 20) :
    (s.setSph n v).acc = s.acc := by cases n <;> rfl
@[simp] theorem setSph_pacc (s : State) (n : Osc) (v : BitVec 20) :
    (s.setSph n v).pacc = s.pacc := by cases n <;> rfl
@[simp] theorem setSph_lr (s : State) (n : Osc) (v : BitVec 20) :
    (s.setSph n v).lr = s.lr := by cases n <;> rfl
@[simp] theorem setSph_run (s : State) (n : Osc) (v : BitVec 20) :
    (s.setSph n v).run = s.run := by cases n <;> rfl
@[simp] theorem setSph_regs (s : State) (n : Osc) (v : BitVec 20) :
    (s.setSph n v).regs = s.regs := by cases n <;> rfl
@[simp] theorem setSph_dram (s : State) (n : Osc) (v : BitVec 20) :
    (s.setSph n v).dram = s.dram := by cases n <;> rfl
@[simp] theorem setSph_wp (s : State) (n : Osc) (v : BitVec 20) :
    (s.setSph n v).wp = s.wp := by cases n <;> rfl
@[simp] theorem setSph_wq (s : State) (n : Osc) (v : BitVec 20) :
    (s.setSph n v).wq = s.wq := by cases n <;> rfl
@[simp] theorem setSph_sph0 (s : State) (n : Osc) (v : BitVec 20) :
    (s.setSph n v).sph0 = if n = .zero then v else s.sph0 := by cases n <;> rfl
@[simp] theorem setSph_sph1 (s : State) (n : Osc) (v : BitVec 20) :
    (s.setSph n v).sph1 = if n = .one then v else s.sph1 := by cases n <;> rfl
@[simp] theorem setSph_rph0 (s : State) (n : Osc) (v : BitVec 20) :
    (s.setSph n v).rph0 = s.rph0 := by cases n <;> rfl
@[simp] theorem setSph_rph1 (s : State) (n : Osc) (v : BitVec 20) :
    (s.setSph n v).rph1 = s.rph1 := by cases n <;> rfl
@[simp] theorem setSph_sinv0 (s : State) (n : Osc) (v : BitVec 20) :
    (s.setSph n v).sinv0 = s.sinv0 := by cases n <;> rfl
@[simp] theorem setSph_sinv1 (s : State) (n : Osc) (v : BitVec 20) :
    (s.setSph n v).sinv1 = s.sinv1 := by cases n <;> rfl
@[simp] theorem setSph_cosv0 (s : State) (n : Osc) (v : BitVec 20) :
    (s.setSph n v).cosv0 = s.cosv0 := by cases n <;> rfl
@[simp] theorem setSph_cosv1 (s : State) (n : Osc) (v : BitVec 20) :
    (s.setSph n v).cosv1 = s.cosv1 := by cases n <;> rfl
@[simp] theorem setSph_rmpv0 (s : State) (n : Osc) (v : BitVec 20) :
    (s.setSph n v).rmpv0 = s.rmpv0 := by cases n <;> rfl
@[simp] theorem setSph_rmpv1 (s : State) (n : Osc) (v : BitVec 20) :
    (s.setSph n v).rmpv1 = s.rmpv1 := by cases n <;> rfl
@[simp] theorem setSph_rmpc0 (s : State) (n : Osc) (v : BitVec 20) :
    (s.setSph n v).rmpc0 = s.rmpc0 := by cases n <;> rfl
@[simp] theorem setSph_rmpc1 (s : State) (n : Osc) (v : BitVec 20) :
    (s.setSph n v).rmpc1 = s.rmpc1 := by cases n <;> rfl
@[simp] theorem setSph_phase (s : State) (n : Osc) (v : BitVec 20) :
    (s.setSph n v).phase = s.phase := by cases n <;> rfl
@[simp] theorem setSph_pending (s : State) (n : Osc) (v : BitVec 20) :
    (s.setSph n v).pending = s.pending := by cases n <;> rfl
@[simp] theorem setSph_outL (s : State) (n : Osc) (v : BitVec 20) :
    (s.setSph n v).outL = s.outL := by cases n <;> rfl
@[simp] theorem setSph_outR (s : State) (n : Osc) (v : BitVec 20) :
    (s.setSph n v).outR = s.outR := by cases n <;> rfl
@[simp] theorem setSph_loadOk (s : State) (n : Osc) (v : BitVec 20) :
    (s.setSph n v).loadOk = s.loadOk := by cases n <;> rfl
@[simp] theorem setSph_cfg (s : State) (n : Osc) (v : BitVec 20) :
    (s.setSph n v).cfg = s.cfg := by cases n <;> rfl

@[simp] theorem setSph_readReg (s : State) (n : Osc) (v : BitVec 20) (q : Reg) :
    (s.setSph n v).readReg q = s.readReg q := by cases n <;> rfl
@[simp] theorem setSph_memRead (s : State) (n : Osc) (v : BitVec 20) (b : BitVec 15) :
    (s.setSph n v).memRead b = s.memRead b := by cases n <;> rfl
@[simp] theorem setSph_dramSlot (s : State) (n : Osc) (v : BitVec 20) (i : Nat) :
    (s.setSph n v).dramSlot i = s.dramSlot i := by cases n <;> rfl
@[simp] theorem setSph_progWord (s : State) (n : Osc) (v : BitVec 20) (i : Nat) :
    (s.setSph n v).progWord i = s.progWord i := by cases n <;> rfl

/-! ### `setRph` -/

@[simp] theorem setRph_mode (s : State) (n : Osc) (v : BitVec 26) :
    (s.setRph n v).mode = s.mode := by cases n <;> rfl
@[simp] theorem setRph_prog (s : State) (n : Osc) (v : BitVec 26) :
    (s.setRph n v).prog = s.prog := by cases n <;> rfl
@[simp] theorem setRph_plen (s : State) (n : Osc) (v : BitVec 26) :
    (s.setRph n v).plen = s.plen := by cases n <;> rfl
@[simp] theorem setRph_pc (s : State) (n : Osc) (v : BitVec 26) :
    (s.setRph n v).pc = s.pc := by cases n <;> rfl
@[simp] theorem setRph_acc (s : State) (n : Osc) (v : BitVec 26) :
    (s.setRph n v).acc = s.acc := by cases n <;> rfl
@[simp] theorem setRph_pacc (s : State) (n : Osc) (v : BitVec 26) :
    (s.setRph n v).pacc = s.pacc := by cases n <;> rfl
@[simp] theorem setRph_lr (s : State) (n : Osc) (v : BitVec 26) :
    (s.setRph n v).lr = s.lr := by cases n <;> rfl
@[simp] theorem setRph_run (s : State) (n : Osc) (v : BitVec 26) :
    (s.setRph n v).run = s.run := by cases n <;> rfl
@[simp] theorem setRph_regs (s : State) (n : Osc) (v : BitVec 26) :
    (s.setRph n v).regs = s.regs := by cases n <;> rfl
@[simp] theorem setRph_dram (s : State) (n : Osc) (v : BitVec 26) :
    (s.setRph n v).dram = s.dram := by cases n <;> rfl
@[simp] theorem setRph_wp (s : State) (n : Osc) (v : BitVec 26) :
    (s.setRph n v).wp = s.wp := by cases n <;> rfl
@[simp] theorem setRph_wq (s : State) (n : Osc) (v : BitVec 26) :
    (s.setRph n v).wq = s.wq := by cases n <;> rfl
@[simp] theorem setRph_sph0 (s : State) (n : Osc) (v : BitVec 26) :
    (s.setRph n v).sph0 = s.sph0 := by cases n <;> rfl
@[simp] theorem setRph_sph1 (s : State) (n : Osc) (v : BitVec 26) :
    (s.setRph n v).sph1 = s.sph1 := by cases n <;> rfl
@[simp] theorem setRph_rph0 (s : State) (n : Osc) (v : BitVec 26) :
    (s.setRph n v).rph0 = if n = .zero then v else s.rph0 := by cases n <;> rfl
@[simp] theorem setRph_rph1 (s : State) (n : Osc) (v : BitVec 26) :
    (s.setRph n v).rph1 = if n = .one then v else s.rph1 := by cases n <;> rfl
@[simp] theorem setRph_sinv0 (s : State) (n : Osc) (v : BitVec 26) :
    (s.setRph n v).sinv0 = s.sinv0 := by cases n <;> rfl
@[simp] theorem setRph_sinv1 (s : State) (n : Osc) (v : BitVec 26) :
    (s.setRph n v).sinv1 = s.sinv1 := by cases n <;> rfl
@[simp] theorem setRph_cosv0 (s : State) (n : Osc) (v : BitVec 26) :
    (s.setRph n v).cosv0 = s.cosv0 := by cases n <;> rfl
@[simp] theorem setRph_cosv1 (s : State) (n : Osc) (v : BitVec 26) :
    (s.setRph n v).cosv1 = s.cosv1 := by cases n <;> rfl
@[simp] theorem setRph_rmpv0 (s : State) (n : Osc) (v : BitVec 26) :
    (s.setRph n v).rmpv0 = s.rmpv0 := by cases n <;> rfl
@[simp] theorem setRph_rmpv1 (s : State) (n : Osc) (v : BitVec 26) :
    (s.setRph n v).rmpv1 = s.rmpv1 := by cases n <;> rfl
@[simp] theorem setRph_rmpc0 (s : State) (n : Osc) (v : BitVec 26) :
    (s.setRph n v).rmpc0 = s.rmpc0 := by cases n <;> rfl
@[simp] theorem setRph_rmpc1 (s : State) (n : Osc) (v : BitVec 26) :
    (s.setRph n v).rmpc1 = s.rmpc1 := by cases n <;> rfl
@[simp] theorem setRph_phase (s : State) (n : Osc) (v : BitVec 26) :
    (s.setRph n v).phase = s.phase := by cases n <;> rfl
@[simp] theorem setRph_pending (s : State) (n : Osc) (v : BitVec 26) :
    (s.setRph n v).pending = s.pending := by cases n <;> rfl
@[simp] theorem setRph_outL (s : State) (n : Osc) (v : BitVec 26) :
    (s.setRph n v).outL = s.outL := by cases n <;> rfl
@[simp] theorem setRph_outR (s : State) (n : Osc) (v : BitVec 26) :
    (s.setRph n v).outR = s.outR := by cases n <;> rfl
@[simp] theorem setRph_loadOk (s : State) (n : Osc) (v : BitVec 26) :
    (s.setRph n v).loadOk = s.loadOk := by cases n <;> rfl
@[simp] theorem setRph_cfg (s : State) (n : Osc) (v : BitVec 26) :
    (s.setRph n v).cfg = s.cfg := by cases n <;> rfl

@[simp] theorem setRph_readReg (s : State) (n : Osc) (v : BitVec 26) (q : Reg) :
    (s.setRph n v).readReg q = s.readReg q := by cases n <;> rfl
@[simp] theorem setRph_memRead (s : State) (n : Osc) (v : BitVec 26) (b : BitVec 15) :
    (s.setRph n v).memRead b = s.memRead b := by cases n <;> rfl
@[simp] theorem setRph_dramSlot (s : State) (n : Osc) (v : BitVec 26) (i : Nat) :
    (s.setRph n v).dramSlot i = s.dramSlot i := by cases n <;> rfl
@[simp] theorem setRph_progWord (s : State) (n : Osc) (v : BitVec 26) (i : Nat) :
    (s.setRph n v).progWord i = s.progWord i := by cases n <;> rfl

/-! ### `advancePhases` -/

@[simp] theorem advancePhases_mode (s : State) : s.advancePhases.mode = s.mode := rfl
@[simp] theorem advancePhases_prog (s : State) : s.advancePhases.prog = s.prog := rfl
@[simp] theorem advancePhases_plen (s : State) : s.advancePhases.plen = s.plen := rfl
@[simp] theorem advancePhases_pc (s : State) : s.advancePhases.pc = s.pc := rfl
@[simp] theorem advancePhases_acc (s : State) : s.advancePhases.acc = s.acc := rfl
@[simp] theorem advancePhases_pacc (s : State) : s.advancePhases.pacc = s.pacc := rfl
@[simp] theorem advancePhases_lr (s : State) : s.advancePhases.lr = s.lr := rfl
@[simp] theorem advancePhases_run (s : State) : s.advancePhases.run = s.run := rfl
@[simp] theorem advancePhases_regs (s : State) : s.advancePhases.regs = s.regs := rfl
@[simp] theorem advancePhases_dram (s : State) : s.advancePhases.dram = s.dram := rfl
@[simp] theorem advancePhases_wp (s : State) : s.advancePhases.wp = s.wp := rfl
@[simp] theorem advancePhases_wq (s : State) : s.advancePhases.wq = s.wq := rfl
@[simp] theorem advancePhases_sph0 (s : State) :
    s.advancePhases.sph0 = sineAdvance s.sph0 s.regs.sin0Rate := rfl
@[simp] theorem advancePhases_sph1 (s : State) :
    s.advancePhases.sph1 = sineAdvance s.sph1 s.regs.sin1Rate := rfl
@[simp] theorem advancePhases_rph0 (s : State) :
    s.advancePhases.rph0 = rampAdvance s.rph0 s.regs.rmp0Rate s.regs.rmp0Range := rfl
@[simp] theorem advancePhases_rph1 (s : State) :
    s.advancePhases.rph1 = rampAdvance s.rph1 s.regs.rmp1Rate s.regs.rmp1Range := rfl
@[simp] theorem advancePhases_sinv0 (s : State) : s.advancePhases.sinv0 = s.sinv0 := rfl
@[simp] theorem advancePhases_sinv1 (s : State) : s.advancePhases.sinv1 = s.sinv1 := rfl
@[simp] theorem advancePhases_cosv0 (s : State) : s.advancePhases.cosv0 = s.cosv0 := rfl
@[simp] theorem advancePhases_cosv1 (s : State) : s.advancePhases.cosv1 = s.cosv1 := rfl
@[simp] theorem advancePhases_rmpv0 (s : State) : s.advancePhases.rmpv0 = s.rmpv0 := rfl
@[simp] theorem advancePhases_rmpv1 (s : State) : s.advancePhases.rmpv1 = s.rmpv1 := rfl
@[simp] theorem advancePhases_rmpc0 (s : State) : s.advancePhases.rmpc0 = s.rmpc0 := rfl
@[simp] theorem advancePhases_rmpc1 (s : State) : s.advancePhases.rmpc1 = s.rmpc1 := rfl
@[simp] theorem advancePhases_phase (s : State) : s.advancePhases.phase = s.phase := rfl
@[simp] theorem advancePhases_pending (s : State) : s.advancePhases.pending = s.pending := rfl
@[simp] theorem advancePhases_outL (s : State) : s.advancePhases.outL = s.outL := rfl
@[simp] theorem advancePhases_outR (s : State) : s.advancePhases.outR = s.outR := rfl
@[simp] theorem advancePhases_loadOk (s : State) : s.advancePhases.loadOk = s.loadOk := rfl
@[simp] theorem advancePhases_cfg (s : State) : s.advancePhases.cfg = s.cfg := rfl

/-! ### `latchOutputs` -/

@[simp] theorem latchOutputs_mode (s : State) : s.latchOutputs.mode = s.mode := rfl
@[simp] theorem latchOutputs_prog (s : State) : s.latchOutputs.prog = s.prog := rfl
@[simp] theorem latchOutputs_plen (s : State) : s.latchOutputs.plen = s.plen := rfl
@[simp] theorem latchOutputs_pc (s : State) : s.latchOutputs.pc = s.pc := rfl
@[simp] theorem latchOutputs_acc (s : State) : s.latchOutputs.acc = s.acc := rfl
@[simp] theorem latchOutputs_pacc (s : State) : s.latchOutputs.pacc = s.pacc := rfl
@[simp] theorem latchOutputs_lr (s : State) : s.latchOutputs.lr = s.lr := rfl
@[simp] theorem latchOutputs_run (s : State) : s.latchOutputs.run = s.run := rfl
@[simp] theorem latchOutputs_regs (s : State) : s.latchOutputs.regs = s.regs := rfl
@[simp] theorem latchOutputs_dram (s : State) : s.latchOutputs.dram = s.dram := rfl
@[simp] theorem latchOutputs_wp (s : State) : s.latchOutputs.wp = s.wp := rfl
@[simp] theorem latchOutputs_wq (s : State) : s.latchOutputs.wq = s.wq := rfl
@[simp] theorem latchOutputs_sph0 (s : State) : s.latchOutputs.sph0 = s.sph0 := rfl
@[simp] theorem latchOutputs_sph1 (s : State) : s.latchOutputs.sph1 = s.sph1 := rfl
@[simp] theorem latchOutputs_rph0 (s : State) : s.latchOutputs.rph0 = s.rph0 := rfl
@[simp] theorem latchOutputs_rph1 (s : State) : s.latchOutputs.rph1 = s.rph1 := rfl
@[simp] theorem latchOutputs_sinv0 (s : State) :
    s.latchOutputs.sinv0 = sineValue (sinfn s.cfg.sinCos s.sph0.toNat) s.regs.sin0Range := rfl
@[simp] theorem latchOutputs_sinv1 (s : State) :
    s.latchOutputs.sinv1 = sineValue (sinfn s.cfg.sinCos s.sph1.toNat) s.regs.sin1Range := rfl
@[simp] theorem latchOutputs_cosv0 (s : State) :
    s.latchOutputs.cosv0 = sineValue (cosfn s.cfg.sinCos s.sph0.toNat) s.regs.sin0Range := rfl
@[simp] theorem latchOutputs_cosv1 (s : State) :
    s.latchOutputs.cosv1 = sineValue (cosfn s.cfg.sinCos s.sph1.toNat) s.regs.sin1Range := rfl
@[simp] theorem latchOutputs_rmpv0 (s : State) : s.latchOutputs.rmpv0 = rampValue s.rph0 := rfl
@[simp] theorem latchOutputs_rmpv1 (s : State) : s.latchOutputs.rmpv1 = rampValue s.rph1 := rfl
@[simp] theorem latchOutputs_rmpc0 (s : State) :
    s.latchOutputs.rmpc0 = rampCodeField s.regs.rmp0Range := rfl
@[simp] theorem latchOutputs_rmpc1 (s : State) :
    s.latchOutputs.rmpc1 = rampCodeField s.regs.rmp1Range := rfl
@[simp] theorem latchOutputs_phase (s : State) : s.latchOutputs.phase = s.phase := rfl
@[simp] theorem latchOutputs_pending (s : State) : s.latchOutputs.pending = s.pending := rfl
@[simp] theorem latchOutputs_outL (s : State) : s.latchOutputs.outL = s.outL := rfl
@[simp] theorem latchOutputs_outR (s : State) : s.latchOutputs.outR = s.outR := rfl
@[simp] theorem latchOutputs_loadOk (s : State) : s.latchOutputs.loadOk = s.loadOk := rfl
@[simp] theorem latchOutputs_cfg (s : State) : s.latchOutputs.cfg = s.cfg := rfl

/-! ### `startWalk` -/

@[simp] theorem startWalk_mode (s : State) : s.startWalk.mode = s.mode := rfl
@[simp] theorem startWalk_prog (s : State) : s.startWalk.prog = s.prog := rfl
@[simp] theorem startWalk_plen (s : State) : s.startWalk.plen = s.plen := rfl
@[simp] theorem startWalk_pc (s : State) : s.startWalk.pc = 0 := rfl
@[simp] theorem startWalk_acc (s : State) : s.startWalk.acc = s.acc := rfl
@[simp] theorem startWalk_pacc (s : State) : s.startWalk.pacc = s.pacc := rfl
@[simp] theorem startWalk_lr (s : State) : s.startWalk.lr = s.lr := rfl
@[simp] theorem startWalk_run (s : State) : s.startWalk.run = s.run := rfl
@[simp] theorem startWalk_regs (s : State) : s.startWalk.regs = s.regs := rfl
@[simp] theorem startWalk_dram (s : State) : s.startWalk.dram = s.dram := rfl
@[simp] theorem startWalk_wp (s : State) : s.startWalk.wp = s.wp := rfl
@[simp] theorem startWalk_wq (s : State) : s.startWalk.wq = [] := rfl
@[simp] theorem startWalk_sph0 (s : State) : s.startWalk.sph0 = s.sph0 := rfl
@[simp] theorem startWalk_sph1 (s : State) : s.startWalk.sph1 = s.sph1 := rfl
@[simp] theorem startWalk_rph0 (s : State) : s.startWalk.rph0 = s.rph0 := rfl
@[simp] theorem startWalk_rph1 (s : State) : s.startWalk.rph1 = s.rph1 := rfl
@[simp] theorem startWalk_sinv0 (s : State) : s.startWalk.sinv0 = s.sinv0 := rfl
@[simp] theorem startWalk_sinv1 (s : State) : s.startWalk.sinv1 = s.sinv1 := rfl
@[simp] theorem startWalk_cosv0 (s : State) : s.startWalk.cosv0 = s.cosv0 := rfl
@[simp] theorem startWalk_cosv1 (s : State) : s.startWalk.cosv1 = s.cosv1 := rfl
@[simp] theorem startWalk_rmpv0 (s : State) : s.startWalk.rmpv0 = s.rmpv0 := rfl
@[simp] theorem startWalk_rmpv1 (s : State) : s.startWalk.rmpv1 = s.rmpv1 := rfl
@[simp] theorem startWalk_rmpc0 (s : State) : s.startWalk.rmpc0 = s.rmpc0 := rfl
@[simp] theorem startWalk_rmpc1 (s : State) : s.startWalk.rmpc1 = s.rmpc1 := rfl
@[simp] theorem startWalk_phase (s : State) : s.startWalk.phase = .walk := rfl
@[simp] theorem startWalk_pending (s : State) : s.startWalk.pending = s.pending := rfl
@[simp] theorem startWalk_outL (s : State) : s.startWalk.outL = s.outL := rfl
@[simp] theorem startWalk_outR (s : State) : s.startWalk.outR = s.outR := rfl
@[simp] theorem startWalk_loadOk (s : State) : s.startWalk.loadOk = s.loadOk := rfl
@[simp] theorem startWalk_cfg (s : State) : s.startWalk.cfg = s.cfg := rfl

/-! ### `commit` -/

@[simp] theorem commit_mode (s : State) : s.commit.mode = s.mode := rfl
@[simp] theorem commit_prog (s : State) : s.commit.prog = s.prog := rfl
@[simp] theorem commit_plen (s : State) : s.commit.plen = s.plen := rfl
@[simp] theorem commit_pc (s : State) : s.commit.pc = s.pc := rfl
@[simp] theorem commit_acc (s : State) : s.commit.acc = s.acc := rfl
@[simp] theorem commit_pacc (s : State) : s.commit.pacc = s.acc := rfl
@[simp] theorem commit_lr (s : State) : s.commit.lr = s.lr := rfl
@[simp] theorem commit_run (s : State) : s.commit.run = true := rfl
@[simp] theorem commit_regs (s : State) : s.commit.regs = s.regs := rfl
@[simp] theorem commit_dram (s : State) : s.commit.dram = commitWrites s.wp s.wq s.dram := rfl
@[simp] theorem commit_wp (s : State) : s.commit.wp = s.wp + 1 := rfl
@[simp] theorem commit_wq (s : State) : s.commit.wq = [] := rfl
@[simp] theorem commit_sph0 (s : State) : s.commit.sph0 = s.sph0 := rfl
@[simp] theorem commit_sph1 (s : State) : s.commit.sph1 = s.sph1 := rfl
@[simp] theorem commit_rph0 (s : State) : s.commit.rph0 = s.rph0 := rfl
@[simp] theorem commit_rph1 (s : State) : s.commit.rph1 = s.rph1 := rfl
@[simp] theorem commit_sinv0 (s : State) : s.commit.sinv0 = s.sinv0 := rfl
@[simp] theorem commit_sinv1 (s : State) : s.commit.sinv1 = s.sinv1 := rfl
@[simp] theorem commit_cosv0 (s : State) : s.commit.cosv0 = s.cosv0 := rfl
@[simp] theorem commit_cosv1 (s : State) : s.commit.cosv1 = s.cosv1 := rfl
@[simp] theorem commit_rmpv0 (s : State) : s.commit.rmpv0 = s.rmpv0 := rfl
@[simp] theorem commit_rmpv1 (s : State) : s.commit.rmpv1 = s.rmpv1 := rfl
@[simp] theorem commit_rmpc0 (s : State) : s.commit.rmpc0 = s.rmpc0 := rfl
@[simp] theorem commit_rmpc1 (s : State) : s.commit.rmpc1 = s.rmpc1 := rfl
@[simp] theorem commit_phase (s : State) : s.commit.phase = .between := rfl
@[simp] theorem commit_pending (s : State) : s.commit.pending = s.pending := rfl
@[simp] theorem commit_outL (s : State) : s.commit.outL = s.readReg .dacl := rfl
@[simp] theorem commit_outR (s : State) : s.commit.outR = s.readReg .dacr := rfl
@[simp] theorem commit_loadOk (s : State) : s.commit.loadOk = s.loadOk := rfl
@[simp] theorem commit_cfg (s : State) : s.commit.cfg = s.cfg := rfl

end Sys2Proof.Laws
end

