-- ==== Sys2Proof/Laws/Regs.lean ====
section
/-! SUPPORT. The laws of the register file (R30): a register written reads as the word written, every
other register keeps its word. -/

namespace Sys2Proof.Laws

open Sys2Proof.Machine

/-- Read after write (R30). -/
@[simp] theorem regs_read_write (g : Regs) (r q : Reg) (v : Word) :
    (g.write r v).read q = if q = r then v else g.read q := by
  cases r with
  | gen k =>
    cases q with
    | gen j =>
      simp only [Regs.write, Regs.read, Reg.gen.injEq, Fin.getElem_fin, Vector.getElem_set,
        Fin.ext_iff, eq_comm]
    | _ => rfl
  | _ => cases q <;> rfl

/-- Read after write on a state (R30). -/
@[simp] theorem writeReg_readReg (s : State) (r q : Reg) (v : Word) :
    (s.writeReg r v).readReg q = if q = r then v else s.readReg q :=
  regs_read_write s.regs r q v

/-- Read after the write of a pair (R30, R260, R261). -/
@[simp] theorem writePair_readReg (s : State) (r q x : Reg) (v w : Word) :
    (s.writePair r q v w).readReg x = if x = q then w else if x = r then v else s.readReg x := by
  show ((s.regs.write r v).write q w).read x = _
  rw [regs_read_write, regs_read_write]
  rfl

/-- Every register reads 0 after reset (R47). -/
@[simp] theorem regs_read_zero (r : Reg) : Regs.zero.read r = 0 := by
  cases r with
  | gen k => simp [Regs.zero, Regs.read]
  | _ => rfl

end Sys2Proof.Laws
end

