-- ==== Sys2Proof/Laws/Ops.lean ====
section
/-! SUPPORT. For each operation that several instructions share, one lemma that says once everything
it can do; and the frames of Safety.lean for the updates the meanings are made of. -/

namespace Sys2Proof.Laws

open Sys2Proof.Machine Sys2Proof.Safety

/-- Two states that agree on every field `SameOutside` names, the delay memory as data. -/
theorem sameOutside_of_dram {s t : State} (h : t.dram = s.dram) (h0 : t.mode = s.mode)
    (h1 : t.prog = s.prog) (h2 : t.plen = s.plen) (h3 : t.pacc = s.pacc) (h4 : t.run = s.run)
    (h5 : t.wp = s.wp) (h6 : t.sinv0 = s.sinv0) (h7 : t.sinv1 = s.sinv1) (h8 : t.cosv0 = s.cosv0)
    (h9 : t.cosv1 = s.cosv1) (h10 : t.rmpv0 = s.rmpv0) (h11 : t.rmpv1 = s.rmpv1)
    (h12 : t.rmpc0 = s.rmpc0) (h13 : t.rmpc1 = s.rmpc1) (h14 : t.phase = s.phase)
    (h15 : t.pending = s.pending) (h16 : t.outL = s.outL) (h17 : t.outR = s.outR)
    (h18 : t.loadOk = s.loadOk) (h19 : t.cfg = s.cfg) : SameOutside s t :=
  { mode := h0, prog := h1, plen := h2, pacc := h3, run := h4,
    delayMemory := fun a => by simp only [State.dramSlot, h]
    dramEntries := h, wp := h5, sinv0 := h6, sinv1 := h7, cosv0 := h8, cosv1 := h9,
    rmpv0 := h10, rmpv1 := h11, rmpc0 := h12, rmpc1 := h13, phase := h14, pending := h15,
    outL := h16, outR := h17, loadOk := h18, cfg := h19 }

/-- `scaleOffset` (R166): two clamps, and nothing but ACC changes. -/
theorem scaleOffset_spec (s : State) (x c : Int) (f : Nat) (d : Int) :
    (s.scaleOffset x c f d).acc.toInt = clamp (product s.cfg.rnd x c f + d)
      ∧ s.scaleOffset x c f d = s.setAcc (s.scaleOffset x c f d).acc := by
  constructor
  · unfold State.scaleOffset
    rw [setAcc_acc, satadd_toInt, mul_toInt]
  · rfl

/-- `readAccumulate` (R221): the word at the logical address goes to LR, its product to ACC, and
nothing else changes. -/
theorem readAccumulate_spec (s : State) (a : BitVec 15) (c : Int) (f : Nat) :
    (s.readAccumulate a c f).lr = s.memRead a
      ∧ (s.readAccumulate a c f).acc.toInt
          = clamp (s.acc.toInt + product s.cfg.rnd (s.memRead a).toInt c f)
      ∧ s.readAccumulate a c f
          = (s.setLr (s.memRead a)).setAcc (s.readAccumulate a c f).acc := by
  refine ⟨rfl, ?_, rfl⟩
  unfold State.readAccumulate
  rw [setAcc_acc, satadd_toInt, mul_toInt]

/-- `filterStep` (R202): three clamps, and nothing but ACC changes. -/
theorem filterStep_spec (s : State) (x : Word) (c : Int) :
    (s.filterStep x c).acc.toInt
        = clamp (product s.cfg.rnd (clamp (s.acc.toInt - x.toInt)) c 14 + x.toInt)
      ∧ s.filterStep x c = s.setAcc (s.filterStep x c).acc := by
  constructor
  · unfold State.filterStep
    rw [setAcc_acc, satadd_toInt, mul_toInt, satsub_toInt]
  · rfl

/-- `maxMagnitude` (R208): the larger of two clamped magnitudes, and nothing but ACC changes. -/
theorem maxMagnitude_spec (s : State) (x : Word) (c : Int) :
    (s.maxMagnitude x c).acc.toInt
        = max (clamp |product s.cfg.rnd x.toInt c 14|) (clamp |s.acc.toInt|)
      ∧ s.maxMagnitude x c = s.setAcc (s.maxMagnitude x c).acc := by
  constructor
  · unfold State.maxMagnitude
    simp only [setAcc_acc]
    rw [← mul_toInt, ← abs24_toInt, ← abs24_toInt]
    split <;> omega
  · rfl

/-- `storeThen` on a register of `WRITABLE` (R38): the old ACC goes to the register. -/
theorem storeThen_writable {s next : State} {r : Reg} (h : r.writable = true) :
    storeThen s r next = .next (next.writeReg r s.acc).advance := by
  simp [storeThen, h]

/-- `storeThen` on an input register (R38). -/
theorem storeThen_readOnly {s next : State} {r : Reg} (h : r.writable = false) :
    storeThen s r next = .refused (.readOnlyRegister r) := by
  simp [storeThen, h]

/-- The one way `storeThen` goes on. -/
theorem storeThen_next {s next t : State} {r : Reg} (h : storeThen s r next = .next t) :
    r.writable = true ∧ t = (next.writeReg r s.acc).advance := by
  unfold storeThen at h
  split at h
  · exact ⟨by assumption, (Host.Outcome.next.inj h).symm⟩
  · cases h

end Sys2Proof.Laws
end

