-- ==== Sys2Proof/Laws/Frames.lean ====
section
/-! SUPPORT. The frames of Safety.lean: each named operation has its frame, and frames compose, so that
no proof compares two whole states field by field. -/

namespace Sys2Proof.Laws

open Sys2Proof.Machine Sys2Proof.Safety

/-! ### What no instruction touches -/

theorem sameOutside_refl (s : State) : SameOutside s s :=
  sameOutside_of_dram rfl rfl rfl rfl rfl rfl rfl rfl rfl rfl rfl rfl rfl rfl rfl rfl rfl rfl rfl rfl rfl

theorem sameOutside_trans {s t u : State} (h : SameOutside s t) (k : SameOutside t u) :
    SameOutside s u := by
  constructor
  case delayMemory => exact fun a => (k.delayMemory a).trans (h.delayMemory a)
  case mode => exact k.mode.trans h.mode
  case prog => exact k.prog.trans h.prog
  case plen => exact k.plen.trans h.plen
  case pacc => exact k.pacc.trans h.pacc
  case run => exact k.run.trans h.run
  case dramEntries => exact k.dramEntries.trans h.dramEntries
  case wp => exact k.wp.trans h.wp
  case sinv0 => exact k.sinv0.trans h.sinv0
  case sinv1 => exact k.sinv1.trans h.sinv1
  case cosv0 => exact k.cosv0.trans h.cosv0
  case cosv1 => exact k.cosv1.trans h.cosv1
  case rmpv0 => exact k.rmpv0.trans h.rmpv0
  case rmpv1 => exact k.rmpv1.trans h.rmpv1
  case rmpc0 => exact k.rmpc0.trans h.rmpc0
  case rmpc1 => exact k.rmpc1.trans h.rmpc1
  case phase => exact k.phase.trans h.phase
  case pending => exact k.pending.trans h.pending
  case outL => exact k.outL.trans h.outL
  case outR => exact k.outR.trans h.outR
  case loadOk => exact k.loadOk.trans h.loadOk
  case cfg => exact k.cfg.trans h.cfg

theorem sameOutside_setAcc (s : State) (v : Word) : SameOutside s (s.setAcc v) := by
  constructor <;> intros <;> rfl
theorem sameOutside_setLr (s : State) (v : Word) : SameOutside s (s.setLr v) := by
  constructor <;> intros <;> rfl
theorem sameOutside_writeReg (s : State) (r : Reg) (v : Word) : SameOutside s (s.writeReg r v) := by
  constructor <;> intros <;> rfl
theorem sameOutside_writePair (s : State) (r q : Reg) (v w : Word) :
    SameOutside s (s.writePair r q v w) := by
  constructor <;> intros <;> rfl
theorem sameOutside_memWrite (s : State) (a : BitVec 15) (v : Word) : SameOutside s (s.memWrite a v) := by
  constructor <;> intros <;> rfl
theorem sameOutside_advance (s : State) : SameOutside s s.advance := by
  constructor <;> intros <;> rfl
theorem sameOutside_skip (s : State) (n : BitVec 6) : SameOutside s (s.skip n) := by
  constructor <;> intros <;> rfl
theorem sameOutside_setSph (s : State) (n : Osc) (v : BitVec 20) : SameOutside s (s.setSph n v) := by
  cases n <;> constructor <;> intros <;> rfl
theorem sameOutside_setRph (s : State) (n : Osc) (v : BitVec 26) : SameOutside s (s.setRph n v) := by
  cases n <;> constructor <;> intros <;> rfl

theorem sameOutside_scaleOffset (s : State) (x c : Int) (f : Nat) (d : Int) :
    SameOutside s (s.scaleOffset x c f d) := sameOutside_setAcc s _
theorem sameOutside_filterStep (s : State) (x : Word) (c : Int) : SameOutside s (s.filterStep x c) :=
  sameOutside_setAcc s _
theorem sameOutside_maxMagnitude (s : State) (x : Word) (c : Int) :
    SameOutside s (s.maxMagnitude x c) := sameOutside_setAcc s _
theorem sameOutside_readAccumulate (s : State) (a : BitVec 15) (c : Int) (f : Nat) :
    SameOutside s (s.readAccumulate a c f) :=
  sameOutside_trans (sameOutside_setLr s _) (sameOutside_setAcc _ _)

/-! ### The frames of the instruction shapes -/

/-- Writing ACC and the program counter. -/
theorem onlyAcc_update (s : State) (pc : BitVec 8) (acc : Word) :
    OnlyAcc s { s with pc := pc, acc := acc } :=
  ⟨by constructor <;> intros <;> rfl, fun _ _ => rfl, ⟨rfl, rfl, rfl, rfl⟩, rfl, rfl⟩

/-- Writing ACC, LR and the program counter. -/
theorem onlyAccLr_update (s : State) (pc : BitVec 8) (acc lr : Word) :
    OnlyAccLr s { s with pc := pc, acc := acc, lr := lr } :=
  ⟨by constructor <;> intros <;> rfl, fun _ _ => rfl, ⟨rfl, rfl, rfl, rfl⟩, rfl⟩

/-- Writing ACC, the write queue and the program counter. -/
theorem onlyAccWq_update (s : State) (pc : BitVec 8) (acc : Word) (wq : List (BitVec 15 × Word)) :
    OnlyAccWq s { s with pc := pc, acc := acc, wq := wq } :=
  ⟨by constructor <;> intros <;> rfl, fun _ _ => rfl, ⟨rfl, rfl, rfl, rfl⟩, rfl⟩

/-- Writing one register, ACC and the program counter. -/
theorem onlyAccReg_update (s : State) (r : Reg) (pc : BitVec 8) (acc v : Word) :
    OnlyAccReg r s { s with pc := pc, acc := acc, regs := s.regs.write r v } :=
  ⟨by constructor <;> intros <;> rfl, fun q hq => by
    simp only [List.mem_singleton] at hq
    simp [State.readReg, hq], ⟨rfl, rfl, rfl, rfl⟩, rfl, rfl⟩

/-! ### Addresses and conditions, on numbers -/

/-- The slot of a logical address (R65). -/
theorem physSlot_eq_slotOf {wp a : BitVec 15} {n : Nat} (h : a.toNat = n % 32768) :
    physSlot wp a = slotOf wp.toNat n := by
  unfold physSlot slotOf
  rw [BitVec.toNat_sub, h]
  have := wp.isLt
  omega

/-- The address field of a delay instruction (R63). -/
theorem delayAddr_toNat (a : BitVec 16) : (delayAddr a).toNat = a.toNat % 32768 := by
  simp [delayAddr]

/-- The address in ADDR_PTR (R222). -/
theorem pointerAddr_toNat (p : Word) : (pointerAddr p).toNat = p.toNat / 256 % 32768 := by
  simp [pointerAddr, BitVec.extractLsb'_toNat, Nat.shiftRight_eq_div_pow]

/-- A saturated magnitude, read as a natural number (R163). -/
theorem abs24_toNat (x : Int) : ((abs24 x).toNat : Int) = clamp |x| := by
  rw [← abs24_toInt]
  have h : 0 ≤ (abs24 x).toInt := by
    rw [abs24_toInt]; unfold clamp; have := abs_nonneg x; omega
  rw [BitVec.toInt_eq_toNat_cond] at h ⊢
  split <;> rename_i h2
  · rfl
  · rw [if_neg h2] at h; have := (abs24 x).isLt; omega

/-- A word is 0 exactly when its value is. -/
theorem eq_zero_iff_toInt (v : Word) : (v == 0#24) = decide (v.toInt = 0) := by
  rw [Bool.eq_iff_iff, beq_iff_eq, decide_eq_true_eq, ← BitVec.toInt_inj]; rfl

/-- The condition of SKP, on numbers (R236, R238). -/
theorem skipTaken_iff (c : SkpCond) (s : State) : skipTaken c s = true ↔ SkipHolds c s := by
  unfold SkipHolds skipTaken condRun condZrc condZro condGez condNeg
  rw [BitVec.msb_eq_toInt, BitVec.msb_eq_toInt, eq_zero_iff_toInt]
  simp only [Bool.and_eq_true, Bool.or_eq_true, Bool.not_eq_true', bne_iff_ne, ne_eq,
    decide_eq_true_eq, decide_eq_decide, Int.not_lt, ← Bool.not_eq_true, ← imp_iff_not_or, and_assoc]

/-- The registers a store may name are all but the input registers (R38). -/
theorem writable_iff (r : Reg) : r.writable = true ↔ r ∉ inputRegs := by
  cases r <;> simp [inputRegs, Reg.writable]

end Sys2Proof.Laws
end

