-- ==== Sys2Proof/Laws/Kernels.lean ====
section
/-! SUPPORT. What the kernel algorithms compute (R172, R173, R254): `floorLog2` and the bit search of
the exponential are exact, stated on integers as powers of two, and the sine kernels stay in range. -/

namespace Sys2Proof.Laws

open Sys2Proof.Machine

/-! ### The logarithm -/

/-- Repeated squaring is a power. -/
theorem squareTimes_eq (k v : Nat) : squareTimes k v = v ^ 2 ^ k := by
  induction k generalizing v with
  | zero => simp [squareTimes]
  | succ k ih => rw [squareTimes, ih, ← pow_two, ← pow_mul, pow_succ, Nat.mul_comm]

/-- Bounds on a number, never with a lower mantissa of 0 and a small upper one. -/
structure Bounded (b : Bounds) (x : Nat) : Prop where
  below : b.lo * 2 ^ b.e ≤ x
  above : x ≤ b.hi * 2 ^ b.e
  nonzero : 1 ≤ b.lo ∨ 2 ^ 63 ≤ b.hi

/-- Bounds on the square. -/
theorem bounded_square {b : Bounds} {x : Nat} (h : Bounded b x) : Bounded b.square (x * x) := by
  unfold Bounds.square
  generalize hs : Nat.log2 (b.hi * b.hi) + 1 - 64 = s
  have hpos : 0 < 2 ^ s := by positivity
  have hexp : 2 ^ (2 * b.e + s) = 2 ^ s * (2 ^ b.e * 2 ^ b.e) := by
    rw [pow_add, two_mul, pow_add, Nat.mul_comm]
  refine ⟨?_, ?_, ?_⟩ <;> simp only [Nat.shiftRight_eq_div_pow]
  · rw [hexp, ← Nat.mul_assoc]
    calc b.lo * b.lo / 2 ^ s * 2 ^ s * (2 ^ b.e * 2 ^ b.e)
        ≤ b.lo * b.lo * (2 ^ b.e * 2 ^ b.e) := Nat.mul_le_mul_right _ (Nat.div_mul_le_self _ _)
      _ = (b.lo * 2 ^ b.e) * (b.lo * 2 ^ b.e) := by ring
      _ ≤ x * x := Nat.mul_le_mul h.below h.below
  · rw [hexp, ← Nat.mul_assoc]
    have hup : b.hi * b.hi ≤ (b.hi * b.hi + (2 ^ s - 1)) / 2 ^ s * 2 ^ s := by
      have h1 := Nat.div_add_mod (b.hi * b.hi + (2 ^ s - 1)) (2 ^ s)
      have h2 := Nat.mod_lt (b.hi * b.hi + (2 ^ s - 1)) hpos
      rw [Nat.mul_comm] at h1
      omega
    calc x * x ≤ (b.hi * 2 ^ b.e) * (b.hi * 2 ^ b.e) := Nat.mul_le_mul h.above h.above
      _ = b.hi * b.hi * (2 ^ b.e * 2 ^ b.e) := by ring
      _ ≤ _ := Nat.mul_le_mul_right _ hup
  · by_cases hsz : s = 0
    · subst hsz
      rcases h.nonzero with hlo | hhi
      · left; simp only [pow_zero, Nat.div_one]; exact Nat.mul_le_mul hlo hlo
      · right; simp only [pow_zero, Nat.div_one]; nlinarith
    · right
      have hh : b.hi * b.hi ≠ 0 := by
        intro h0; rw [h0] at hs; simp at hs; omega
      have h1 := Nat.log2_self_le hh
      have h2 : Nat.log2 (b.hi * b.hi) = 63 + s := by omega
      rw [Nat.le_div_iff_mul_le hpos, ← pow_add, ← h2]
      omega

/-- Bounds on a repeated square. -/
theorem bounded_squareTimes (k : Nat) {b : Bounds} {x : Nat} (h : Bounded b x) :
    Bounded (Bounds.squareTimes k b) (x ^ 2 ^ k) := by
  induction k generalizing b x with
  | zero => simpa [Bounds.squareTimes] using h
  | succ k ih =>
    have := ih (bounded_square h)
    rwa [← pow_two, ← pow_mul, ← pow_succ'] at this

/-- A binary logarithm from its two defining bounds. -/
theorem log2_eq_of {x l : Nat} (h1 : 2 ^ l ≤ x) (h2 : x < 2 ^ (l + 1)) : Nat.log2 x = l := by
  have hx : x ≠ 0 := by have := Nat.two_pow_pos l; omega
  exact (Nat.log2_eq_iff hx).2 ⟨h1, h2⟩

/-- `floorLog2` is exact (R172). -/
theorem floorLog2_eq {v : Nat} (hv : 1 ≤ v) : floorLog2 v = Nat.log2 (v ^ 2 ^ 19) := by
  have hb : Bounded ⟨v, v, 0⟩ v := ⟨by simp, by simp, .inl hv⟩
  have h := bounded_squareTimes 19 hb
  unfold floorLog2
  generalize Bounds.squareTimes 19 ⟨v, v, 0⟩ = b at h ⊢
  simp only []
  split
  · rename_i heq
    symm
    have hlo : b.lo ≠ 0 := by
      rcases h.nonzero with h1 | h1
      · omega
      · intro h0
        rw [h0, Nat.log2_zero] at heq
        have h2 := (Nat.le_log2 (n := b.hi) (k := 63) (by omega)).2 h1
        omega
    apply log2_eq_of
    · rw [pow_add]
      exact (Nat.mul_le_mul_right _ (Nat.log2_self_le hlo)).trans h.below
    · refine lt_of_le_of_lt h.above ?_
      rw [heq, show Nat.log2 b.hi + b.e + 1 = (Nat.log2 b.hi + 1) + b.e by omega, pow_add]
      exact Nat.mul_lt_mul_of_pos_right Nat.lt_log2_self (Nat.two_pow_pos _)
  · rw [squareTimes_eq]

/-- The two bounds that say `floorLog2 v = ⌊log2(v) * 2^19⌋`. -/
theorem floorLog2_spec {v : Nat} (hv : 1 ≤ v) :
    2 ^ floorLog2 v ≤ v ^ 2 ^ 19 ∧ v ^ 2 ^ 19 < 2 ^ (floorLog2 v + 1) := by
  rw [floorLog2_eq hv]
  have : v ^ 2 ^ 19 ≠ 0 := (Nat.pow_pos hv).ne'
  exact ⟨Nat.log2_self_le this, Nat.lt_log2_self⟩

/-- `floorLog2` of a power of two. -/
theorem floorLog2_pow (k : Nat) : floorLog2 (2 ^ k) = k * 2 ^ 19 := by
  rw [floorLog2_eq (Nat.two_pow_pos k), ← pow_mul, Nat.log2_two_pow]

/-- `floorLog2` is monotone. -/
theorem floorLog2_mono {v w : Nat} (hv : 1 ≤ v) (h : v ≤ w) : floorLog2 v ≤ floorLog2 w := by
  have h1 := (floorLog2_spec hv).1
  have h2 := (floorLog2_spec (hv.trans h)).2
  have h3 : v ^ 2 ^ 19 ≤ w ^ 2 ^ 19 := Nat.pow_le_pow_left h _
  have := (Nat.pow_lt_pow_iff_right (a := 2) (by omega)).1 (lt_of_le_of_lt (h1.trans h3) h2)
  omega

/-! ### The exponential -/

/-- `isPow2` finds the powers of two. -/
theorem isPow2_iff (v : Nat) : isPow2 v = true ↔ ∃ k, v = 2 ^ k := by
  unfold isPow2
  rw [beq_iff_eq]
  constructor
  · exact fun h => ⟨_, h⟩
  · rintro ⟨k, rfl⟩; rw [Nat.log2_two_pow]

/-- `leExp2` is exact. -/
theorem leExp2_iff {v : Nat} (hv : 1 ≤ v) (t : Nat) : leExp2 v t = true ↔ v ^ 2 ^ 19 ≤ 2 ^ t := by
  have hs := floorLog2_spec hv
  unfold leExp2
  simp only [Bool.or_eq_true, Bool.and_eq_true, decide_eq_true_eq]
  constructor
  · rintro (h | ⟨h, hp⟩)
    · exact hs.2.le.trans (Nat.pow_le_pow_right (by omega) h)
    · obtain ⟨k, rfl⟩ := (isPow2_iff v).1 hp
      rw [← h, floorLog2_pow, ← pow_mul]
  · intro h
    have hle : floorLog2 v ≤ t :=
      (Nat.pow_le_pow_iff_right (a := 2) (by omega)).1 (hs.1.trans h)
    rcases Nat.lt_or_eq_of_le hle with hlt | heq
    · exact .inl hlt
    · refine .inr ⟨heq, (isPow2_iff v).2 ?_⟩
      have hpow : v ^ 2 ^ 19 = 2 ^ t := le_antisymm h (heq ▸ hs.1)
      have hdvd : v ∣ 2 ^ t := hpow ▸ dvd_pow_self v (by positivity)
      obtain ⟨k, _, hk⟩ := (Nat.dvd_prime_pow Nat.prime_two).1 hdvd
      exact ⟨k, hk⟩

/-- The bit search keeps what holds of its start and finds the largest value it can reach. -/
theorem searchExp2_spec (t k v : Nat) (h : v ^ 2 ^ 19 ≤ 2 ^ t) :
    (searchExp2 t k v) ^ 2 ^ 19 ≤ 2 ^ t ∧ v ≤ searchExp2 t k v ∧ searchExp2 t k v < v + 2 ^ k
      ∧ (searchExp2 t k v + 1 < v + 2 ^ k → 2 ^ t < (searchExp2 t k v + 1) ^ 2 ^ 19) := by
  induction k generalizing v with
  | zero => exact ⟨h, Nat.le_refl v, Nat.lt_succ_self v, fun hlt => absurd hlt (Nat.lt_irrefl _)⟩
  | succ k ih =>
    have hpos := Nat.two_pow_pos k
    have hk : 2 ^ (k + 1) = 2 ^ k + 2 ^ k := by rw [pow_succ]; omega
    have hiff := leExp2_iff (v := v + 2 ^ k) (by omega) t
    rw [searchExp2]
    split <;> rename_i hc
    · obtain ⟨h1, h2, h3, h4⟩ := ih (v + 2 ^ k) (hiff.1 hc)
      exact ⟨h1, by omega, by omega, fun h => h4 (by omega)⟩
    · obtain ⟨h1, h2, h3, h4⟩ := ih v h
      refine ⟨h1, h2, by omega, fun _ => ?_⟩
      by_cases hl : searchExp2 t k v + 1 < v + 2 ^ k
      · exact h4 hl
      · have : searchExp2 t k v + 1 = v + 2 ^ k := by omega
        rw [this]
        exact Nat.lt_of_not_le fun hle => hc (hiff.2 hle)

/-- The two bounds that say `searchExp2 t 23 0 = ⌊2^(t / 2^19)⌋`, below 2^23 (R173). -/
theorem searchExp2_exact {t : Nat} (ht : t < 23 * 524288) :
    (searchExp2 t 23 0) ^ 2 ^ 19 ≤ 2 ^ t ∧ 2 ^ t < (searchExp2 t 23 0 + 1) ^ 2 ^ 19
      ∧ searchExp2 t 23 0 ≤ 8388607 := by
  have h0 : (0 : Nat) ^ 2 ^ 19 ≤ 2 ^ t := by
    rw [zero_pow (by positivity)]; exact Nat.zero_le _
  obtain ⟨h1, _, h3, h4⟩ := searchExp2_spec t 23 0 h0
  rw [Nat.zero_add] at h3 h4
  have hb : (2 : Nat) ^ 23 = 8388608 := by norm_num
  refine ⟨h1, ?_, by omega⟩
  by_cases hl : searchExp2 t 23 0 + 1 < 2 ^ 23
  · exact h4 hl
  · have : searchExp2 t 23 0 + 1 = 2 ^ 23 := by omega
    rw [this, ← pow_mul]
    exact Nat.pow_lt_pow_right (by omega) (by omega)

/-! ### Ranges -/

/-- A clamped value lies between its bounds. -/
theorem clampInt_bounds {lo hi : Int} (h : lo ≤ hi) (x : Int) :
    lo ≤ clampInt lo hi x ∧ clampInt lo hi x ≤ hi := by
  unfold clampInt; omega

/-- Every sine kernel stays within -8388607 .. 8388607 (R254). -/
theorem sinfn_bounds (k : KernelChoice) (p : Nat) : -8388607 ≤ sinfn k p ∧ sinfn k p ≤ 8388607 := by
  have hq : ∀ r, 0 ≤ sinQuadrant r ∧ sinQuadrant r ≤ 8388607 :=
    fun r => clampInt_bounds (by norm_num) _
  cases k
  · unfold sinfn sinRef
    have h1 := hq (p % 262144)
    have h2 := hq (262144 - p % 262144)
    simp only []
    split <;> omega
  · have h := clampInt_bounds (show (-8388607 : Int) ≤ 8388607 by norm_num) (Config.otherSin p)
    unfold sinfn sinOther
    simp only []
    split
    · split <;> omega
    · exact h

/-- So does every cosine kernel (R254). -/
theorem cosfn_bounds (k : KernelChoice) (p : Nat) : -8388607 ≤ cosfn k p ∧ cosfn k p ≤ 8388607 :=
  sinfn_bounds k _

end Sys2Proof.Laws
end

