-- ==== Sys2Proof/Laws/PerInstr.lean ====
section
/-! SUPPORT. Facts about every instruction as syntax, one lemma for each constructor. -/

namespace Sys2Proof.Laws.OpcodeField

open Sys2Proof.Laws

/-- The opcode of an instruction in the map of R110; a spelling has that of its expansion (R136). -/
def opcode : Instr → BitVec 5
  | .rda _ _ => 0x00#5
  | .rmpa _ => 0x01#5
  | .wra _ _ => 0x02#5
  | .wrap _ _ => 0x03#5
  | .rdax _ _ => 0x04#5
  | .rdfx _ _ => 0x05#5
  | .wrax _ _ => 0x06#5
  | .wrhx _ _ => 0x07#5
  | .wrlx _ _ => 0x08#5
  | .maxx _ _ => 0x09#5
  | .mulx _ => 0x0A#5
  | .log _ _ => 0x0B#5
  | .exp _ _ => 0x0C#5
  | .sof _ _ => 0x0D#5
  | .and _ => 0x0E#5
  | .or _ => 0x0F#5
  | .xor _ => 0x10#5
  | .skp _ _ => 0x11#5
  | .wlds _ _ _ => 0x12#5
  | .wldr _ _ _ => 0x12#5
  | .jam _ => 0x13#5
  | .choRda _ _ _ => 0x14#5
  | .choSof _ _ _ => 0x14#5
  | .choRdal _ _ => 0x14#5
  | .clr => 0x0E#5
  | .not => 0x10#5
  | .absa => 0x09#5
  | .ldax _ => 0x05#5
  | .nop => 0x11#5
  | .jmp _ => 0x11#5

/-- The low five bits of the word are the opcode, whatever the operands (R90, R91, R110). -/
def Statement (i : Instr) : Prop := (encode i).extractLsb' 0 5 = opcode i

theorem rda (c : BitVec 11) (a : BitVec 16) : Statement (.rda c a) := by
  simp (disch := omega) [Statement, encode, opcode, field_place_same, field_place_below]

theorem rmpa (c : BitVec 11) : Statement (.rmpa c) := by
  simp (disch := omega) [Statement, encode, opcode, field_place_same, field_place_below]

theorem wra (c : BitVec 11) (a : BitVec 16) : Statement (.wra c a) := by
  simp (disch := omega) [Statement, encode, opcode, field_place_same, field_place_below]

theorem wrap (c : BitVec 11) (a : BitVec 16) : Statement (.wrap c a) := by
  simp (disch := omega) [Statement, encode, opcode, field_place_same, field_place_below]

theorem rdax (r : Reg) (c : BitVec 16) : Statement (.rdax r c) := by
  simp (disch := omega) [Statement, encode, encodeR, opcode, field_place_same, field_place_below]

theorem rdfx (r : Reg) (c : BitVec 16) : Statement (.rdfx r c) := by
  simp (disch := omega) [Statement, encode, encodeR, opcode, field_place_same, field_place_below]

theorem wrax (r : Reg) (c : BitVec 16) : Statement (.wrax r c) := by
  simp (disch := omega) [Statement, encode, encodeR, opcode, field_place_same, field_place_below]

theorem wrhx (r : Reg) (c : BitVec 16) : Statement (.wrhx r c) := by
  simp (disch := omega) [Statement, encode, encodeR, opcode, field_place_same, field_place_below]

theorem wrlx (r : Reg) (c : BitVec 16) : Statement (.wrlx r c) := by
  simp (disch := omega) [Statement, encode, encodeR, opcode, field_place_same, field_place_below]

theorem maxx (r : Reg) (c : BitVec 16) : Statement (.maxx r c) := by
  simp (disch := omega) [Statement, encode, encodeR, opcode, field_place_same, field_place_below]

theorem mulx (r : Reg) : Statement (.mulx r) := by
  simp (disch := omega) [Statement, encode, opcode, field_place_same, field_place_below]

theorem log (c : BitVec 16) (d : BitVec 11) : Statement (.log c d) := by
  simp (disch := omega) [Statement, encode, opcode, field_place_same, field_place_below]

theorem exp (c : BitVec 16) (d : BitVec 11) : Statement (.exp c d) := by
  simp (disch := omega) [Statement, encode, opcode, field_place_same, field_place_below]

theorem sof (c : BitVec 16) (d : BitVec 11) : Statement (.sof c d) := by
  simp (disch := omega) [Statement, encode, opcode, field_place_same, field_place_below]

theorem and (m : Word) : Statement (.and m) := by
  simp (disch := omega) [Statement, encode, opcode, field_place_same, field_place_below]

theorem or (m : Word) : Statement (.or m) := by
  simp (disch := omega) [Statement, encode, opcode, field_place_same, field_place_below]

theorem xor (m : Word) : Statement (.xor m) := by
  simp (disch := omega) [Statement, encode, opcode, field_place_same, field_place_below]

theorem skp (c : SkpCond) (n : BitVec 6) : Statement (.skp c n) := by
  simp (disch := omega) [Statement, encode, opcode, field_place_same, field_place_below,
    SkpCond.place]

theorem wlds (n : Osc) (f : BitVec 9) (a : BitVec 15) : Statement (.wlds n f a) := by
  simp (disch := omega) [Statement, encode, opcode, field_place_same, field_place_below]

theorem wldr (n : Osc) (f : BitVec 16) (a : BitVec 2) : Statement (.wldr n f a) := by
  simp (disch := omega) [Statement, encode, opcode, field_place_same, field_place_below]

theorem jam (n : Osc) : Statement (.jam n) := by
  simp (disch := omega) [Statement, encode, opcode, field_place_same, field_place_below]

theorem choRda (c : ChoFlags) (o : Lfo) (a : BitVec 16) : Statement (.choRda c o a) := by
  simp (disch := omega) [Statement, encode, encodeC, opcode, field_place_same, field_place_below,
    ChoFlags.place, Lfo.place]

theorem choSof (c : ChoFlags) (o : Lfo) (d : BitVec 16) : Statement (.choSof c o d) := by
  simp (disch := omega) [Statement, encode, encodeC, opcode, field_place_same, field_place_below,
    ChoFlags.place, Lfo.place]

theorem choRdal (c : ChoFlags) (o : Lfo) : Statement (.choRdal c o) := by
  simp (disch := omega) [Statement, encode, encodeC, opcode, field_place_same, field_place_below,
    ChoFlags.place, Lfo.place]

theorem clr : Statement (.clr) := rfl

theorem not : Statement (.not) := rfl

theorem absa : Statement (.absa) := rfl

theorem ldax (r : Reg) : Statement (.ldax r) := by
  simp (disch := omega) [Statement, encode, opcode, field_place_same, field_place_below]

theorem nop : Statement (.nop) := rfl

theorem jmp (n : BitVec 6) : Statement (.jmp n) := by
  simp (disch := omega) [Statement, encode, opcode, field_place_same, field_place_below]

end Sys2Proof.Laws.OpcodeField
end

