-- ==== Sys2Proof/Laws/Sine.lean ====
section
/-! SUPPORT. The reference sine against the real one (R254): the error of the integer Taylor series, and
the first quadrant within half an LSB. -/

namespace Sys2Proof.Laws

open Sys2Proof.Machine

/-- The `k`-th term of the Taylor series of the sine at `y`, unsigned. -/
noncomputable def sinTerm (y : ℝ) (k : ℕ) : ℝ := y ^ (2 * k + 1) / (2 * k + 1).factorial

/-- Each term from the one before it. -/
theorem sinTerm_succ (y : ℝ) (k : ℕ) :
    sinTerm y (k + 1) = sinTerm y k * y ^ 2 / ((2 * k + 2) * (2 * k + 3) : ℕ) := by
  unfold sinTerm
  rw [show 2 * (k + 1) + 1 = (2 * k + 1) + 1 + 1 by ring, Nat.factorial_succ, Nat.factorial_succ]
  have := Nat.factorial_pos (2 * k + 1)
  push_cast
  field_simp
  ring

/-- No term exceeds 2 on the first quadrant. -/
theorem sinTerm_bounds {y : ℝ} (h0 : 0 ≤ y) (h1 : y ≤ 8 / 5) (k : ℕ) :
    0 ≤ sinTerm y k ∧ sinTerm y k ≤ 2 := by
  induction k with
  | zero => simp [sinTerm]; constructor <;> linarith
  | succ k ih =>
    rw [sinTerm_succ]
    have hd : (6 : ℝ) ≤ ((2 * k + 2) * (2 * k + 3) : ℕ) := by
      have : 6 ≤ (2 * k + 2) * (2 * k + 3) := by nlinarith
      exact_mod_cast this
    refine ⟨by have := ih.1; positivity, ?_⟩
    rw [div_le_iff₀ (by linarith)]
    nlinarith [ih.1, ih.2, mul_nonneg ih.1 (sq_nonneg y)]

/-- The sine against the first fourteen terms of its series. -/
theorem sin_taylor {y : ℝ} (h0 : 0 ≤ y) (h1 : y ≤ 8 / 5) :
    |Real.sin y - ∑ k ∈ Finset.range 14, (-1) ^ k * sinTerm y k| ≤ 1 / 2 ^ 70 := by
  have hpair : ∀ (n : ℕ) (f : ℕ → ℂ), ∑ m ∈ Finset.range (2 * n), f m
      = ∑ k ∈ Finset.range n, (f (2 * k) + f (2 * k + 1)) := by
    intro n f
    induction n with
    | zero => simp
    | succ n ih =>
      rw [show 2 * (n + 1) = 2 * n + 1 + 1 by ring, Finset.sum_range_succ, Finset.sum_range_succ, ih,
        Finset.sum_range_succ]
      ring
  have hn : ‖(y : ℂ) * Complex.I‖ = y := by simp [abs_of_nonneg h0]
  have hb := Complex.exp_bound' (x := y * Complex.I) (n := 28) (by rw [hn]; norm_num; linarith)
  rw [hn, show (28 : ℕ) = 2 * 14 by rfl, hpair] at hb
  have him := (Complex.abs_im_le_norm _).trans hb
  have hsum : (∑ k ∈ Finset.range 14, (((y : ℂ) * Complex.I) ^ (2 * k) / ((2 * k).factorial : ℂ)
      + ((y : ℂ) * Complex.I) ^ (2 * k + 1) / ((2 * k + 1).factorial : ℂ))).im
      = ∑ k ∈ Finset.range 14, (-1) ^ k * sinTerm y k := by
    rw [Complex.im_sum]
    refine Finset.sum_congr rfl fun k _ => ?_
    have he : ((y : ℂ) * Complex.I) ^ (2 * k) / ((2 * k).factorial : ℂ)
        = (((-1) ^ k * (y ^ (2 * k) / (2 * k).factorial) : ℝ) : ℂ) := by
      rw [mul_pow, pow_mul Complex.I, Complex.I_sq]; push_cast; ring
    have ho : ((y : ℂ) * Complex.I) ^ (2 * k + 1) / ((2 * k + 1).factorial : ℂ)
        = (((-1) ^ k * sinTerm y k : ℝ) : ℂ) * Complex.I := by
      rw [mul_pow, pow_succ Complex.I, pow_mul Complex.I, Complex.I_sq]
      unfold sinTerm; push_cast; ring
    rw [he, ho, Complex.add_im, Complex.ofReal_im, Complex.im_ofReal_mul]
    simp
  rw [Complex.sub_im, hsum, Complex.exp_ofReal_mul_I_im] at him
  refine him.trans ?_
  have : y ^ (2 * 14) ≤ (8 / 5) ^ (2 * 14) := pow_le_pow_left₀ h0 h1 _
  have hf : ((2 * 14).factorial : ℝ) = 304888344611713860501504000000 := by norm_num [Nat.factorial]
  rw [hf]
  rw [div_mul_eq_mul_div, div_le_iff₀ (by norm_num)]
  refine (mul_le_mul_of_nonneg_right this (by norm_num)).trans ?_
  norm_num

/-- A floored quotient of naturals, on reals. -/
theorem natDiv_real (a b : ℕ) (hb : 0 < b) :
    (a : ℝ) / b - 1 < ((a / b : ℕ) : ℝ) ∧ ((a / b : ℕ) : ℝ) ≤ (a : ℝ) / b := by
  have hb' : (0 : ℝ) < b := by exact_mod_cast hb
  refine ⟨?_, Nat.cast_div_le⟩
  rw [sub_lt_iff_lt_add, div_lt_iff₀ hb']
  exact_mod_cast Nat.lt_mul_of_div_lt (Nat.lt_succ_self _) hb

/-- One term of the integer series against the real one: never above it, and at most 4 below. -/
theorem next_term {y : ℝ} (h0 : 0 ≤ y) (h1 : y ≤ 8 / 5) {x2 term j next : ℕ}
    (hn : next = (term * x2) >>> 80 / ((2 * j + 2) * (2 * j + 3)))
    (hq : (x2 : ℝ) ≤ y ^ 2 * 2 ^ 80) (hq' : y ^ 2 * 2 ^ 80 - 1 ≤ x2)
    (ht : (term : ℝ) ≤ sinTerm y j * 2 ^ 80) (ht' : sinTerm y j * 2 ^ 80 - 4 ≤ term) :
    (next : ℝ) ≤ sinTerm y (j + 1) * 2 ^ 80 ∧ sinTerm y (j + 1) * 2 ^ 80 - 4 ≤ (next : ℝ) := by
  rw [hn, Nat.shiftRight_eq_div_pow, sinTerm_succ]
  have hd : 6 ≤ (2 * j + 2) * (2 * j + 3) := by nlinarith
  generalize (2 * j + 2) * (2 * j + 3) = d at hd
  have hd' : (6 : ℝ) ≤ d := by exact_mod_cast hd
  obtain ⟨hT0, hT2⟩ := sinTerm_bounds h0 h1 j
  generalize sinTerm y j = T at *
  have hy : y ^ 2 ≤ 64 / 25 := by nlinarith
  have hy0 := sq_nonneg y
  generalize y ^ 2 = Y at *
  obtain ⟨a1, a2⟩ := natDiv_real (term * x2) (2 ^ 80) (by norm_num)
  generalize term * x2 / 2 ^ 80 = m at *
  obtain ⟨b1, b2⟩ := natDiv_real m d (by omega)
  generalize ((m / d : ℕ) : ℝ) = n at *
  push_cast at a1 a2
  have hup : (term : ℝ) * x2 ≤ (T * 2 ^ 80) * (Y * 2 ^ 80) :=
    mul_le_mul ht hq (Nat.cast_nonneg _) (by positivity)
  have hlow : (T * 2 ^ 80 - 4) * (Y * 2 ^ 80) - T * 2 ^ 80 ≤ (term : ℝ) * x2 := by
    have h2 : (term : ℝ) * (Y * 2 ^ 80 - 1) ≤ term * x2 :=
      mul_le_mul_of_nonneg_left hq' (Nat.cast_nonneg _)
    have h3 : (T * 2 ^ 80 - 4) * (Y * 2 ^ 80) ≤ term * (Y * 2 ^ 80) :=
      mul_le_mul_of_nonneg_right ht' (by positivity)
    linarith
  have hm : (m : ℝ) ≤ T * Y * 2 ^ 80 := by
    refine a2.trans ?_
    rw [div_le_iff₀ (by norm_num)]; linarith
  have hm' : T * Y * 2 ^ 80 - 14 ≤ m := by
    refine le_trans ?_ a1.le
    rw [le_sub_iff_add_le, le_div_iff₀ (by norm_num)]; nlinarith
  have hd0 : (0 : ℝ) < d := by linarith
  constructor
  · refine b2.trans ?_
    rw [div_mul_eq_mul_div]
    exact div_le_div_of_nonneg_right hm hd0.le
  · have h4 : (T * Y * 2 ^ 80 - 14) / d ≤ m / d := div_le_div_of_nonneg_right hm' hd0.le
    have h5 : (14 : ℝ) / d ≤ 3 := by rw [div_le_iff₀ hd0]; linarith
    have h6 : (T * Y * 2 ^ 80 - 14) / d = T * Y / d * 2 ^ 80 - 14 / d := by ring
    linarith

/-- The integer series against the real one. -/
theorem sinTaylor_near {y : ℝ} (h0 : 0 ≤ y) (h1 : y ≤ 8 / 5) {x2 : ℕ}
    (hq : (x2 : ℝ) ≤ y ^ 2 * 2 ^ 80) (hq' : y ^ 2 * 2 ^ 80 - 1 ≤ x2) (n : ℕ) {j term : ℕ}
    (ht : (term : ℝ) ≤ sinTerm y j * 2 ^ 80) (ht' : sinTerm y j * 2 ^ 80 - 4 ≤ term) (sum : ℤ) :
    |(sinTaylor x2 n j term sum : ℝ)
      - (sum + (∑ k ∈ Finset.range n, (-1) ^ (j + k) * sinTerm y (j + k)) * 2 ^ 80)| ≤ (4 * n : ℝ) := by
  induction n generalizing j term sum with
  | zero => simp [sinTaylor]
  | succ n ih =>
    obtain ⟨a, b⟩ := next_term h0 h1 rfl hq hq' ht ht'
    have h := ih a b (if j % 2 = 0 then sum + term else sum - term)
    rw [sinTaylor]
    rw [Finset.sum_range_succ']
    have hs : ∀ k, (-1 : ℝ) ^ (j + (k + 1)) * sinTerm y (j + (k + 1))
        = (-1) ^ (j + 1 + k) * sinTerm y (j + 1 + k) := fun k => by rw [add_assoc j 1 k, add_comm 1 k]
    simp only [hs, add_zero]
    rw [abs_le] at h ⊢
    rcases Nat.mod_two_eq_zero_or_one j with hj | hj
    · rw [Even.neg_one_pow (Nat.even_iff.2 hj)]
      rw [if_pos hj] at h ⊢
      push_cast at h ⊢
      constructor <;> linarith [h.1, h.2]
    · rw [Odd.neg_one_pow (Nat.odd_iff.2 hj)]
      rw [if_neg (by omega)] at h ⊢
      push_cast at h ⊢
      constructor <;> linarith [h.1, h.2]

/-- The integer argument of a first-quadrant phase against the real one. -/
theorem quadrantArg_near {r : ℕ} (hr : r ≤ 262144) :
    |(((r * halfPi80) >>> 18 : ℕ) : ℝ) / 2 ^ 80 - 2 * Real.pi * r / 2 ^ 20| ≤ 1 / 2 ^ 65 := by
  have hr' : (r : ℝ) ≤ 262144 := by exact_mod_cast hr
  have hr0 : (0 : ℝ) ≤ r := Nat.cast_nonneg r
  rw [Nat.shiftRight_eq_div_pow]
  obtain ⟨a, b⟩ := natDiv_real (r * halfPi80) (2 ^ 18) (by norm_num)
  generalize ((r * halfPi80 / 2 ^ 18 : ℕ) : ℝ) = x at *
  have h1 := Real.pi_gt_d20
  have h2 := Real.pi_lt_d20
  unfold halfPi80 at a b
  push_cast at a b
  generalize Real.pi = p at *
  have e : |(1898976236818169290393996 : ℝ) / 2 ^ 80 - p / 2| ≤ 1 / 2 ^ 67 := by
    rw [abs_le]; constructor <;> norm_num <;> linarith
  have f : 2 * p * r / 2 ^ 20 = r / 2 ^ 18 * (p / 2) := by ring
  have g : |r / 2 ^ 18 * (1898976236818169290393996 / 2 ^ 80 - p / 2)| ≤ 1 * (1 / 2 ^ 67) := by
    rw [abs_mul]
    refine mul_le_mul ?_ e (abs_nonneg _) zero_le_one
    rw [abs_of_nonneg (by positivity), div_le_one (by norm_num)]; linarith
  rw [f, abs_le]
  rw [abs_le] at g
  have hx : x / 2 ^ 80 = r / 2 ^ 18 * (1898976236818169290393996 / 2 ^ 80)
      + (x - r * 1898976236818169290393996 / 2 ^ 18) / 2 ^ 80 := by ring
  have hx1 : (x - r * 1898976236818169290393996 / 2 ^ 18) / 2 ^ 80 ≤ 0 :=
    div_nonpos_of_nonpos_of_nonneg (by linarith) (by norm_num)
  have hx2 : -1 / 2 ^ 80 ≤ (x - r * 1898976236818169290393996 / 2 ^ 18) / 2 ^ 80 :=
    div_le_div_of_nonneg_right (by linarith) (by norm_num)
  have h80 : (1 : ℝ) / 2 ^ 80 ≤ 1 / 2 ^ 67 := by norm_num
  have h65 : (1 : ℝ) / 2 ^ 65 = 4 * (1 / 2 ^ 67) := by norm_num
  rw [neg_div] at hx2
  constructor <;> linarith [g.1, g.2]

/-- On the first quadrant the reference sine lies within half an LSB of the real one, up to 2^-40
(R254). -/
theorem sinQuadrant_near {r : ℕ} (hr : r ≤ 262144) :
    |(sinQuadrant r : ℝ) - Real.sin (2 * Real.pi * r / 2 ^ 20) * 8388607| ≤ 1 / 2 + 1 / 2 ^ 40 := by
  have hr' : (r : ℝ) ≤ 262144 := by exact_mod_cast hr
  have hr0 : (0 : ℝ) ≤ r := Nat.cast_nonneg r
  have hY0 : 0 ≤ 2 * Real.pi * r / 2 ^ 20 := by positivity
  have hY1 : 2 * Real.pi * r / 2 ^ 20 ≤ Real.pi / 2 := by
    rw [div_le_iff₀ (by norm_num)]; nlinarith [Real.pi_pos]
  have hX := quadrantArg_near hr
  have hs0 : 0 ≤ Real.sin (2 * Real.pi * r / 2 ^ 20) :=
    Real.sin_nonneg_of_nonneg_of_le_pi hY0 (by linarith [Real.pi_pos])
  have hs1 := Real.sin_le_one (2 * Real.pi * r / 2 ^ 20)
  have hpi := Real.pi_lt_d20
  unfold sinQuadrant
  generalize (r * halfPi80) >>> 18 = x at *
  generalize 2 * Real.pi * r / 2 ^ 20 = Y at *
  have hy0 : (0 : ℝ) ≤ x / 2 ^ 80 := by positivity
  have hy1 : (x : ℝ) / 2 ^ 80 ≤ 8 / 5 := by
    have h65 : (1 : ℝ) / 2 ^ 65 ≤ 1 / 100 := by norm_num
    have := (abs_le.1 hX).2
    norm_num at hpi
    linarith
  obtain ⟨q1, q2⟩ := natDiv_real (x * x) (2 ^ 80) (by norm_num)
  have hsq : (((x * x) : ℕ) : ℝ) / (2 ^ 80 : ℕ) = ((x : ℝ) / 2 ^ 80) ^ 2 * 2 ^ 80 := by
    push_cast; ring
  rw [hsq] at q1 q2
  have hx0 : sinTerm ((x : ℝ) / 2 ^ 80) 0 * 2 ^ 80 = x := by simp [sinTerm]
  have h := sinTaylor_near hy0 hy1 q2 q1.le 14 (j := 0) (term := x) (by rw [hx0])
    (by rw [hx0]; linarith) 0
  simp only [zero_add, Int.cast_zero] at h
  have ht := sin_taylor hy0 hy1
  have hl : |Real.sin ((x : ℝ) / 2 ^ 80) - Real.sin Y| ≤ 1 / 2 ^ 65 :=
    (Real.abs_sin_sub_sin_le _ _).trans hX
  simp only [Nat.shiftRight_eq_div_pow]
  generalize sinTaylor (x * x / 2 ^ 80) 14 0 x 0 = s at *
  generalize Real.sin Y = z at *
  generalize ∑ k ∈ Finset.range 14, (-1 : ℝ) ^ k * sinTerm ((x : ℝ) / 2 ^ 80) k = S at *
  have hs : |(s : ℝ) - z * 2 ^ 80| ≤ 2 ^ 16 := by
    rw [abs_le] at *
    norm_num at h ht hl ⊢
    constructor <;> linarith [h.1, h.2, ht.1, ht.2, hl.1, hl.2]
  have hd1 := Int.ediv_mul_le (2 * s * 8388607 + 2 ^ 80) (show (2 ^ 81 : ℤ) ≠ 0 by norm_num)
  have hd2 := Int.lt_ediv_add_one_mul_self (2 * s * 8388607 + 2 ^ 80)
    (show (0 : ℤ) < 2 ^ 81 by norm_num)
  generalize (2 * s * 8388607 + 2 ^ 80) / 2 ^ 81 = v at *
  have hr1 : (v : ℝ) * 2 ^ 81 ≤ 2 * s * 8388607 + 2 ^ 80 := by exact_mod_cast hd1
  have hr2 : 2 * (s : ℝ) * 8388607 + 2 ^ 80 < (v + 1) * 2 ^ 81 := by exact_mod_cast hd2
  have hv : |(v : ℝ) - z * 8388607| ≤ 1 / 2 + 1 / 2 ^ 40 := by
    rw [abs_le] at hs ⊢
    norm_num at hs hr1 hr2 ⊢
    constructor <;> linarith [hs.1, hs.2]
  unfold clampInt
  push_cast
  rw [abs_le] at hv ⊢
  constructor
  · refine le_trans ?_ (sub_le_sub_right (le_max_right _ _) _)
    rcases min_choice (v : ℝ) 8388607 with h | h <;> rw [h]
    · exact hv.1
    · norm_num; linarith
  · rcases max_choice (0 : ℝ) (min (v : ℝ) 8388607) with h | h <;> rw [h]
    · norm_num; linarith
    · exact (sub_le_sub_right (min_le_left _ _) _).trans hv.2

/-- The fold of the reference sine onto the first quadrant (R254). -/
theorem sinRef_fold {r : ℕ} (hr : r < 262144) :
    sinRef r = sinQuadrant r ∧ sinRef (262144 + r) = sinQuadrant (262144 - r)
      ∧ sinRef (524288 + r) = -sinQuadrant r
      ∧ sinRef (786432 + r) = -sinQuadrant (262144 - r) := by
  unfold sinRef
  refine ⟨?_, ?_, ?_, ?_⟩
  · rw [show r % 262144 = r by omega, show r / 262144 = 0 by omega]; norm_num
  · rw [show (262144 + r) % 262144 = r by omega, show (262144 + r) / 262144 = 1 by omega]; norm_num
  · rw [show (524288 + r) % 262144 = r by omega, show (524288 + r) / 262144 = 2 by omega]; norm_num
  · rw [show (786432 + r) % 262144 = r by omega, show (786432 + r) / 262144 = 3 by omega]; norm_num

end Sys2Proof.Laws
end

