-- ==== Sys2Proof/Laws/Tick.lean ====
section
/-! SUPPORT. What the host actions and the two ends of a tick do to the state, each said once as the
record of what is written. -/

namespace Sys2Proof.Laws

open Sys2Proof.Machine Sys2Proof.Safety

/-- The input registers are written, every other register keeps its word (R141). -/
theorem regs_read_latch (g : Regs) (i : TickInput) (r : Reg) (h : r ∉ inputRegs) :
    (g.latch i).read r = g.read r := by
  cases r <;> first | rfl | simp [inputRegs] at h

/-- The start of a tick, as one record (R141, R142, R146, R251, R252, R256, R257). -/
theorem beginTick_eq (s : State) (i : TickInput) :
    s.beginTick i =
      let p0 := sineAdvance s.sph0 s.regs.sin0Rate
      let p1 := sineAdvance s.sph1 s.regs.sin1Rate
      let q0 := rampAdvance s.rph0 s.regs.rmp0Rate s.regs.rmp0Range
      let q1 := rampAdvance s.rph1 s.regs.rmp1Rate s.regs.rmp1Range
      { s with
        regs := s.regs.latch i
        sph0 := p0, sph1 := p1, rph0 := q0, rph1 := q1
        sinv0 := sineValue (sinfn s.cfg.sinCos p0.toNat) s.regs.sin0Range
        cosv0 := sineValue (cosfn s.cfg.sinCos p0.toNat) s.regs.sin0Range
        sinv1 := sineValue (sinfn s.cfg.sinCos p1.toNat) s.regs.sin1Range
        cosv1 := sineValue (cosfn s.cfg.sinCos p1.toNat) s.regs.sin1Range
        rmpv0 := rampValue q0, rmpc0 := rampCodeField s.regs.rmp0Range
        rmpv1 := rampValue q1, rmpc1 := rampCodeField s.regs.rmp1Range
        pc := 0, wq := [], phase := .walk } :=
  rfl

/-! ### What a step is -/

/-- Between ticks a step performs the next host action (R327). -/
theorem step_perform {s : State} {a : HostAction} {rest : List HostAction}
    (h : s.phase = .between) (hp : s.pending = a :: rest) :
    step s = .next (({ s with pending := rest } : State).perform a) := by
  have hs : s.hostStep = ({ s with pending := rest } : State).perform a := by
    unfold State.hostStep; rw [hp]
  unfold step
  split
  · rw [hs]
  · simp_all

/-- Between ticks nothing happens that no host requested (R51). -/
theorem step_waiting {s : State} (h : s.phase = .between) (hp : s.pending = []) :
    step s = .next s := by
  have hs : s.hostStep = s := by unfold State.hostStep; rw [hp]
  unfold step
  split
  · rw [hs]
  · simp_all

/-- When the walk is over a step is the commit (R144, R150). -/
theorem step_commit {s : State} (h : s.phase = .walk) (hp : s.plen ≤ s.pc.toNat) :
    step s = .next s.commit := by
  have hf : s.fetch = .walkOver := by unfold State.fetch; rw [if_pos hp]
  unfold step
  split
  · simp_all
  · rw [hf]

/-! ### The commit -/

/-- What a cell of the delay memory holds after a queue is committed: the last word scheduled for its
slot, or what it held (R68). -/
theorem read_commitWrites (wp : BitVec 15) (wq : List (BitVec 15 × Word)) (m : Memory 24)
    (h : Memory.wf 0 32768 m = true) (p : Nat) :
    Memory.read 0 (commitWrites wp wq m) p =
      match wq.reverse.find? (fun e => physSlot wp e.1 == p) with
      | some e => e.2
      | none => Memory.read 0 m p := by
  induction wq generalizing m with
  | nil => rfl
  | cons e wq ih =>
    have hw : Memory.wf 0 32768 (commitOne wp m e) = true := wf_write e.2 h (physSlot_lt wp e.1)
    rw [show commitWrites wp (e :: wq) m = commitWrites wp wq (commitOne wp m e) from rfl, ih _ hw,
      List.reverse_cons, List.find?_append]
    cases List.find? (fun e => physSlot wp e.1 == p) wq.reverse with
    | some x => rfl
    | none =>
      simp only [Option.none_or, List.find?_cons, List.find?_nil]
      by_cases hp : physSlot wp e.1 = p
      · subst hp; simp; exact read_write_same e.2 h
      · rw [show (physSlot wp e.1 == p) = false by simpa using hp]
        exact read_write_other _ (Ne.symm hp)

end Sys2Proof.Laws
end

