-- ==== Sys2Proof/Tests/Slice0.lean ====
section
/-! SUPPORT. Tests. Expected values are those of 95_test_vectors.md and of the examples in the rules;
none is the model's own answer. Then, for each obligation with hypotheses, a witness that they can be
met together. -/

namespace Sys2Proof.Tests

open Sys2Proof.Machine Sys2Proof.Safety

/-! ### WellFormed: an ill-formed term for each check -/

theorem test_wrax_to_input_register : (Instr.wrax .pot0 0).wellFormed = false := by decide
theorem test_wrhx_to_input_register : (Instr.wrhx .adcl 0).wellFormed = false := by decide
theorem test_wrlx_to_input_register : (Instr.wrlx .adcr 0).wellFormed = false := by decide
theorem test_sine_with_rptr2 :
    (Instr.choRda { ChoFlags.empty with rptr2 := true } (.sine .zero) 0).wellFormed = false := by decide
theorem test_sine_with_na :
    (Instr.choSof { ChoFlags.empty with na := true } (.sine .one) 0).wellFormed = false := by decide
theorem test_ramp_with_cos :
    (Instr.choRda { ChoFlags.empty with cos := true } (.ramp .zero) 0).wellFormed = false := by decide
theorem test_rdal_with_compc :
    (Instr.choRdal { ChoFlags.empty with compc := true } (.sine .zero)).wellFormed = false := by decide
theorem test_rdal_with_na :
    (Instr.choRdal { ChoFlags.empty with na := true } (.ramp .zero)).wellFormed = false := by decide
theorem test_dac_is_writable : (Instr.wrax .dacr 0).wellFormed = true := by decide

/-! ### Decoding: one word for each constructor, put together from the fields of R91 to R99 -/

theorem test_decode_rda :
    decode (0b00100000000#11 ++ 0x0064#16 ++ 0b00000#5)
      = .ok (.rda 0x100 100) := by decide
theorem test_decode_rmpa :
    decode (0b11111111111#11 ++ 0x0000#16 ++ 0b00001#5)
      = .ok (.rmpa 0x7FF) := by decide
theorem test_decode_wra :
    decode (0b11000000000#11 ++ 0x00C8#16 ++ 0b00010#5)
      = .ok (.wra 0x600 200) := by decide
theorem test_decode_wrap :
    decode (0b11100000000#11 ++ 0x0064#16 ++ 0b00011#5)
      = .ok (.wrap 0x700 100) := by decide
theorem test_decode_rdax :
    decode (0x4000#16 ++ 0b00000#5 ++ 0b010100#6 ++ 0b00100#5)
      = .ok (.rdax .adcl 0x4000) := by decide
theorem test_decode_rdfx :
    decode (0x1000#16 ++ 0b00000#5 ++ 0b100000#6 ++ 0b00101#5)
      = .ok (.rdfx (.gen 0) 0x1000) := by decide
theorem test_decode_wrax :
    decode (0x4000#16 ++ 0b00000#5 ++ 0b010110#6 ++ 0b00110#5)
      = .ok (.wrax .dacl 0x4000) := by decide
theorem test_decode_wrhx :
    decode (0xC000#16 ++ 0b00000#5 ++ 0b100000#6 ++ 0b00111#5)
      = .ok (.wrhx (.gen 0) 0xC000) := by decide
theorem test_decode_wrlx :
    decode (0x2000#16 ++ 0b00000#5 ++ 0b111111#6 ++ 0b01000#5)
      = .ok (.wrlx (.gen 31) 0x2000) := by decide
theorem test_decode_maxx :
    decode (0xE000#16 ++ 0b00000#5 ++ 0b100001#6 ++ 0b01001#5)
      = .ok (.maxx (.gen 1) 0xE000) := by decide
theorem test_decode_mulx :
    decode (0x0000#16 ++ 0b00000#5 ++ 0b010000#6 ++ 0b01010#5)
      = .ok (.mulx .pot0) := by decide
theorem test_decode_log :
    decode (0x4000#16 ++ 0b00001000000#11 ++ 0b01011#5)
      = .ok (.log 0x4000 0x040) := by decide
theorem test_decode_exp :
    decode (0x2000#16 ++ 0b00100000000#11 ++ 0b01100#5)
      = .ok (.exp 0x2000 0x100) := by decide
theorem test_decode_sof :
    decode (0x2000#16 ++ 0b00100000000#11 ++ 0b01101#5)
      = .ok (.sof 0x2000 0x100) := by decide
theorem test_decode_and :
    decode (0x0F0F0F#24 ++ 0b000#3 ++ 0b01110#5)
      = .ok (.and 0x0F0F0F) := by decide
theorem test_decode_or :
    decode (0x800000#24 ++ 0b000#3 ++ 0b01111#5)
      = .ok (.or 0x800000) := by decide
theorem test_decode_xor :
    decode (0x000001#24 ++ 0b000#3 ++ 0b10000#5)
      = .ok (.xor 1) := by decide
theorem test_decode_skp :
    decode (0b00010#5 ++ 0b000010#6 ++ 0x0000#16 ++ 0b10001#5)
      = .ok (.skp ⟨false, false, false, true, false⟩ 2) := by decide
theorem test_decode_wlds :
    decode (0b00#2 ++ 0b1#1 ++ 0b111111111#9 ++ 0b100000000000000#15 ++ 0b10010#5)
      = .ok (.wlds .one 511 16384) := by decide
theorem test_decode_wldr :
    decode (0b01#2 ++ 0b1#1 ++ 0xE000#16 ++ 0b000000#6 ++ 0b11#2 ++ 0b10010#5)
      = .ok (.wldr .one 0xE000 3) := by decide
theorem test_decode_jam :
    decode (0x000000#24 ++ 0b1#1 ++ 0b1#1 ++ 0b0#1 ++ 0b10011#5)
      = .ok (.jam .one) := by decide
theorem test_decode_choRda :
    decode (0b00#2 ++ 0b000110#6 ++ 0b0#1 ++ 0b00#2 ++ 0x03E8#16 ++ 0b10100#5)
      = .ok (.choRda ⟨false, false, false, true, true, false⟩ (.sine .zero) 1000) := by decide
theorem test_decode_choSof :
    decode (0b10#2 ++ 0b100100#6 ++ 0b0#1 ++ 0b10#2 ++ 0x0000#16 ++ 0b10100#5)
      = .ok (.choSof ⟨true, false, false, true, false, false⟩ (.ramp .zero) 0) := by decide
theorem test_decode_choRdal :
    decode (0b11#2 ++ 0b010000#6 ++ 0b0#1 ++ 0b11#2 ++ 0x0000#16 ++ 0b10100#5)
      = .ok (.choRdal ⟨false, true, false, false, false, false⟩ (.ramp .one)) := by decide

/-! The words of the spellings (R136) decode to the machine instructions they stand for. -/

theorem test_decode_clr_word : decode 0x0000000E = .ok (.and 0) := by decide
theorem test_decode_not_word : decode 0xFFFFFF10 = .ok (.xor 0xFFFFFF) := by decide
theorem test_decode_absa_word : decode 0x00000009 = .ok (.maxx .sin0Rate 0) := by decide
theorem test_decode_ldax_word : decode 0x00000425 = .ok (.rdfx (.gen 1) 0) := by decide
theorem test_decode_nop_word : decode 0x00000011 = .ok (.skp .empty 0) := by decide
theorem test_decode_jmp_word : decode 0x00600011 = .ok (.skp .empty 3) := by decide

/-! The encoder writes the words of 95_test_vectors.md. -/

theorem test_encode_rda : encode (.rda 0x600 0x7FFF) = 0xC00FFFE0 := by decide
theorem test_encode_skp_all : encode (.skp ⟨true, true, true, true, true⟩ 5) = 0xF8A00011 := by decide
theorem test_encode_wldr : encode (.wldr .zero 32767 2) = 0x4FFFE052 := by decide
theorem test_encode_jam : encode (.jam .zero) = 0x00000093 := by decide
theorem test_encode_cho_rdal :
    encode (.choRdal ⟨false, false, true, false, false, false⟩ (.ramp .one)) = 0xC8600014 := by decide
theorem test_encode_jmp : encode (.jmp 3) = 0x00600011 := by decide

/-! Invalid words of section 2.7, each refused by name. -/

theorem test_invalid_0000001F : decode 0x0000001F = .error .unassigned := by decide
theorem test_invalid_C0000012 : decode 0xC0000012 = .error .unassigned := by decide
theorem test_invalid_40000014 : decode 0x40000014 = .error .unassigned := by decide
theorem test_invalid_40000092 : decode 0x40000092 = .error .reservedField := by decide
theorem test_invalid_00800014 : decode 0x00800014 = .error .reservedField := by decide
theorem test_invalid_00000013 : decode 0x00000013 = .error .reservedField := by decide
theorem test_invalid_00000031 : decode 0x00000031 = .error .reservedField := by decide
theorem test_invalid_C0000034 : decode 0xC0000034 = .error .reservedField := by decide
theorem test_invalid_00000264 : decode 0x00000264 = .error .unimplementedRegister := by decide
theorem test_invalid_000002A6 : decode 0x000002A6 = .error .readOnlyRegister := by decide
theorem test_invalid_10000014 : decode 0x10000014 = .error .excludedFlags := by decide
theorem test_invalid_01400014 : decode 0x01400014 = .error .excludedFlags := by decide
theorem test_invalid_C4000014 : decode 0xC4000014 = .error .excludedFlags := by decide

/-! The table form: bits above `nbits` are 0, and a refused word is `none`. -/

theorem test_decodeTableWord : decodeTableWord 32 0x400002C6 = some (.wrax .dacl 0x4000) := by decide
theorem test_decodeTableWord_none : decodeTableWord 32 0x00000015 = none := by decide

/-! ### One step each -/

/-- Reset, with the latch of R272: `SINV0 = 123456`, `COSV0 = 0ABCDE`, `SINV1 = FEDCBA`,
`RMPV0 = 123456` (code 0), `RMPV1 = 012345` (code 3). -/
def base : State :=
  { State.reset with
    sinv0 := 0x123456, cosv0 := 0x0ABCDE, sinv1 := 0xFEDCBA, rmpv0 := 0x123456, rmpv1 := 0x012345
    rmpc1 := 3 }

/-- The same with rounding `floor`. -/
def baseFloor : State := { base with cfg := { Config.default with rnd := .floor } }

/-- The state after fetching and running the word `w` (`base` where the step stops). -/
def after (s : State) (w : Nat) : State :=
  match step (s.withFetchWord 32 w) with
  | .next t => t
  | _ => base

/-- ACC after the word `w`. -/
def accAfter (s : State) (w : Nat) : Word := (after s w).acc

theorem test_sof : accAfter { base with acc := 0x400000 } 0x2000200D = 0x400000 := by decide
theorem test_sof_saturates :
    accAfter { base with acc := 0x800000 } 0xC000000D = 0x7FFFFF := by decide
theorem test_and : accAfter { base with acc := 0x123456 } 0x0F0F0F0E = 0x020406 := by decide
theorem test_or : accAfter { base with acc := 0x123456 } 0x0F0F0F0F = 0x1F3F5F := by decide
theorem test_xor : accAfter { base with acc := 0x123456 } 0x0F0F0F10 = 0x1D3B59 := by decide
theorem test_clr : accAfter { base with acc := 0x7FFFFF } 0x0000000E = 0x000000 := by decide
theorem test_not : accAfter { base with acc := 0x800000 } 0xFFFFFF10 = 0x7FFFFF := by decide
theorem test_log : accAfter { base with acc := 0x400000 } 0x4000000B = 0xF80000 := by decide +kernel
theorem test_log_of_zero :
    accAfter { base with acc := 0x000000 } 0xC000000B = 0x7FFFFF := by decide +kernel
theorem test_exp : accAfter { base with acc := 0xF80000 } 0x2000200C = 0x400000 := by decide +kernel
theorem test_exp_below_one :
    accAfter { base with acc := 0xFFFFFF } 0x4000000C = 0x7FFFF4 := by decide +kernel
theorem test_rdax_two_stage :
    accAfter { base with
        acc := 0xA00000, regs := base.regs.write (.gen 0) 0x7FFFFF } 0x60000404 = 0x1FFFFF := by decide
theorem test_rdax_negative :
    accAfter { base with
        acc := 0x900000, regs := base.regs.write (.gen 0) 0x400000 } 0xC0000404 = 0x800000 := by decide
theorem test_rdfx_nearest :
    accAfter { base with
        acc := 0x7FFFFF, regs := base.regs.write (.gen 0) 0x800000 } 0x20000405 = 0xC00000 := by decide
theorem test_rdfx_floor :
    accAfter { baseFloor with
        acc := 0x7FFFFF, regs := base.regs.write (.gen 0) 0x800000 } 0x20000405 = 0xBFFFFF := by decide
theorem test_ldax :
    accAfter { base with
        acc := 0x123456, regs := base.regs.write (.gen 1) 0x0ABCDE } 0x00000425 = 0x0ABCDE := by decide
theorem test_maxx :
    accAfter { base with
        acc := 0x100000, regs := base.regs.write (.gen 0) 0xA00000 } 0x40000409 = 0x600000 := by decide
theorem test_maxx_extreme :
    accAfter { base with
        acc := 0x000000, regs := base.regs.write (.gen 0) 0x800000 } 0x80000409 = 0x7FFFFF := by decide
theorem test_absa : accAfter { base with acc := 0x800000 } 0x00000009 = 0x7FFFFF := by decide
theorem test_mulx_saturates :
    accAfter { base with
        acc := 0x800000, regs := base.regs.write (.gen 0) 0x800000 } 0x0000040A = 0x7FFFFF := by decide
theorem test_mulx_floor :
    accAfter { baseFloor with
        acc := 0xFFFFFF, regs := base.regs.write (.gen 0) 0x400000 } 0x0000040A = 0xFFFFFF := by decide
theorem test_wrax : accAfter { base with acc := 0x800000 } 0xC0000406 = 0x7FFFFF := by decide
theorem test_wrax_stores : (after { base with acc := 0x800000 } 0xC0000406).readReg (.gen 0) = 0x800000 := by
  decide
theorem test_wrhx :
    accAfter { base with acc := 0x400000, pacc := 0x100000 } 0xC0000407 = 0xD00000 := by decide
theorem test_wrlx :
    accAfter { base with acc := 0x400000, pacc := 0x100000 } 0x20000408 = 0xF80000 := by decide
theorem test_wrlx_saturates :
    accAfter { base with acc := 0x800000, pacc := 0x7FFFFF } 0x40000408 = 0x7FFFFF := by decide
theorem test_rda :
    accAfter { base with
        acc := 0x100000, wp := 150, dram := [(50, 0x400000)] } 0x20000C80 = 0x300000 := by decide
theorem test_rda_wraps :
    accAfter { base with
        acc := 0x000000, wp := 5, dram := [(6, 0x800000)] } 0xC00FFFE0 = 0x7FFFFF := by decide
theorem test_rmpa :
    accAfter { base with
        acc := 0x100000, wp := 150, dram := [(50, 0x400000)], regs := base.regs.write .addrPtr 0x8064FF } 0x20000001 = 0x300000 := by decide
theorem test_wra :
    (after { base with acc := 0x123456 } 0x00000C82).wq = [(100, 0x123456)] := by decide
theorem test_wra_scales : accAfter { base with acc := 0x800000 } 0xC0001902 = 0x7FFFFF := by decide
theorem test_wrap :
    accAfter { base with acc := 0x400000, lr := 0x200000 } 0xE0000C83 = 0x000000 := by decide
theorem test_wrap_schedules : (after { base with acc := 0x400000 } 0xE0000C83).wq = [(100, 0x400000)] := by
  decide
theorem test_skp_taken : (after { base with pc := 10, acc := 1, pacc := 0xFFFFFF } 0x40A00011).pc = 16 := by
  decide
theorem test_skp_not_taken : (after { base with pc := 10, acc := 0xFFFFFF, pacc := 0x800000 } 0x40A00011).pc = 11 := by
  decide
theorem test_nop : (after base 0x00000011).pc = 1 := by decide
theorem test_jmp : (after base 0x00600011).pc = 4 := by decide
theorem test_jmp_from_the_last_slot :
    (after { base with pc := 127 } 0x07E00011).pc = 191 := by decide
theorem test_wlds : (after { base with sph0 := 5 } 0x100FFFF2).readReg .sin0Range = 0x7FFF00
    ∧ (after { base with sph0 := 5 } 0x100FFFF2).sph0 = 0 := by decide
theorem test_wldr : (after base 0x7C000072).readReg .rmp1Rate = 0xE00000
    ∧ (after base 0x7C000072).readReg .rmp1Range = 3 := by decide
theorem test_jam : (after { base with rph1 := 0x0123456 } 0x000000D3).rph1 = 0 := by decide
theorem test_cho_rda :
    accAfter { base with
        acc := 0x000000, wp := 5000, dram := [(1670, 0x400000)] } 0x06007D14 = 0x354000 := by decide
theorem test_cho_rda_crossfade :
    accAfter { base with
        acc := 0x100000, wp := 100, dram := [(23, 0x400000)] } 0x204009B4 = 0x3468AC := by decide
theorem test_cho_sof : accAfter { base with acc := 0x400000 } 0xA4400014 = 0x1B9754 := by decide
theorem test_cho_sof_offset :
    accAfter { base with acc := 0x7FFFFF } 0x84100014 = 0xEA7FFE := by decide
theorem test_cho_rdal : accAfter { base with acc := 0x555555 } 0xC8200014 = 0x012346 := by decide
theorem test_cho_rdal_second_pointer :
    accAfter { base with acc := 0x555555 } 0xD0600014 = 0x052345 := by decide

/-! ### Kernels (R172, R173, R254) -/

theorem test_sinfn : sinfn .reference 1 = 50 ∧ sinfn .reference 131072 = 5931641
    ∧ sinfn .reference 524544 = -12868 ∧ sinfn .reference 1048575 = -50 := by decide +kernel
theorem test_log2fn : log2fn .reference 0x7FFFFF = -1 ∧ log2fn .reference 0x80 = -8388608 := by
  decide +kernel
theorem test_exp2fn : exp2fn .reference (-8388608) = 128 := by decide +kernel

/-! ### Host actions and the tick (sections 1, 2.4 and 2.8) -/

/-- The program of S1. -/
def s1 : List Word32 := [0x0000000D, 0x400002C6, 0x000002E6]

/-- The inputs of S1. -/
def inputs : TickInput := { inL := 0x400000, inR := 0xC00000, pot0 := 0, pot1 := 0, pot2 := 0 }

/-- S1 loaded, with one tick requested. -/
def ready : State := { State.reset.load (.words s1) with pending := [.tick inputs] }

/-- S1 at the start of the walk. -/
def walking : State := { ready.startWalk with pending := [] }

/-- The state after a step (`base` where it stops). -/
def next (s : State) : State :=
  match step s with
  | .next t => t
  | _ => base

theorem test_load_s1 : (State.reset.load (.bytes
    [0, 0, 0, 0x0D, 0x40, 0, 2, 0xC6, 0, 0, 2, 0xE6])).plen = 3 := by decide
theorem test_load_truncated : acceptImage (.bytes [0, 0, 0, 0x11, 0, 0, 0, 0x11, 0, 0, 0]) = none := by
  decide
theorem test_load_unassigned : acceptImage (.bytes [0, 0, 0, 0x15]) = none := by decide
theorem test_load_too_long : acceptImage (.words (List.replicate 129 0x00000011)) = none := by
  decide +kernel
theorem test_load_full : (acceptImage (.words (List.replicate 128 0x00000011))).isSome = true := by
  decide +kernel
theorem test_load_empty : acceptImage (.words []) = some [] := by decide
theorem test_tick_latches : (next ready).readReg .adcr = 0xC00000 := by decide +kernel
theorem test_commit : (next { base with phase := .walk, wp := 150
                                        wq := [(100, 0x123456), (0, 0x400000)] }).dram
    = [(50, 0x123456), (150, 0x400000)] := by decide
theorem test_commit_wraps : (next { base with phase := .walk, wp := 32767 }).wp = 0 := by decide
theorem test_idle_tick : next { State.reset with pending := [.tick inputs] } = State.reset := by decide
theorem test_unload : next { ready with pending := [.unload], outL := 5 }
    = { State.reset with outL := 5, loadOk := true } := by decide

/-! ### The assembler (R126 to R139) -/

theorem test_assemble_s1 : assembleImage
    "SOF 0, 0 ; clear\nWRAX DACL, 1.0\nWRAX DACR, 0".toList = .ok s1 := by decide +kernel
theorem test_assemble_undefined : assembleImage "SKP 0, nowhere".toList = .error .undefinedSymbol := by
  decide +kernel
theorem test_assemble_expansions : assemble "CLR\nNOP".toList
    = .ok [.and 0, .skp .empty 0] := by decide +kernel
theorem test_assemble_unused_constant : assembleImage "EQU A NOWHERE\nNOP".toList
    = .error .undefinedSymbol := by decide +kernel

/-! ### Witnesses for the hypotheses of the obligations -/

/-- The latch at the bounds of R252 and R257. -/
def extreme : State :=
  { State.reset with
    sinv0 := 0x7FFEFF, sinv1 := 0x800100, cosv0 := 0x800100, cosv1 := 0x7FFEFF
    rmpv0 := 0x3FFFFF, rmpv1 := 0x07FFFF, rmpc1 := 3 }

theorem witness_latch_bounded : LatchBounded extreme := by decide
theorem witness_latch_bounded_low : LatchBounded State.reset := by decide
theorem witness_store : Reg.sin0Rate ∉ inputRegs ∧ Reg.dacl ∉ inputRegs ∧ Reg.gen 31 ∉ inputRegs := by
  decide
theorem witness_read_only : Reg.pot0 ∈ inputRegs ∧ Reg.adcr ∈ inputRegs := by decide
theorem witness_skip_holds : SkipHolds ⟨true, true, true, true, false⟩
    { State.reset with pc := 127, run := true, pacc := 0x800000 } := by
  unfold SkipHolds; decide
theorem witness_skip_fails : ¬ SkipHolds ⟨false, false, false, true, true⟩
    { State.reset with pc := 127 } := by
  unfold SkipHolds; decide
theorem witness_skip_slot : ({ State.reset with pc := 127 } : State).pc.toNat < 128 := by decide
theorem witness_cho_sine :
    ChoFlags.allowed ⟨false, false, true, true, true, true⟩ (.sine .one) = true := by decide
theorem witness_cho_ramp :
    ChoFlags.allowed ⟨true, true, true, true, true, false⟩ (.ramp .one) = true := by decide
theorem witness_cho_sine_excluded :
    ChoFlags.allowed ⟨true, false, false, false, false, false⟩ (.sine .zero) = false := by decide
theorem witness_rdal_sine :
    ChoFlags.allowedRdal ⟨false, false, true, false, true, true⟩ (.sine .one) = true
      ∧ LatchBounded extreme := by decide
theorem witness_rdal_ramp :
    ChoFlags.allowedRdal ⟨false, true, true, false, true, false⟩ (.ramp .zero) = true
      ∧ LatchBounded extreme := by decide
theorem witness_rdal_excluded :
    ChoFlags.allowedRdal ⟨false, false, false, true, false, false⟩ (.sine .zero) = false := by decide
theorem witness_selector_without_na :
    ChoFlags.empty.na = false ∧ LatchBounded extreme := by decide
theorem witness_selector_with_na :
    ({ ChoFlags.empty with na := true } : ChoFlags).na = true ∧ LatchBounded extreme := by decide
theorem witness_tick_requested : ready.phase = .between ∧ ready.mode = .loaded
    ∧ ready.pending = .tick inputs :: [] := by decide
theorem witness_idle_tick :
    let s := { State.reset with pending := [.tick inputs] }
    s.phase = .between ∧ s.mode = .idle ∧ s.pending = .tick inputs :: []
      ∧ s.cfg.idleOut = .zero := by decide
theorem witness_idle_tick_pass_through :
    let s := { State.reset with
      pending := [.tick inputs], cfg := { Config.default with idleOut := .passThrough } }
    s.phase = .between ∧ s.mode = .idle ∧ s.pending = .tick inputs :: []
      ∧ s.cfg.idleOut = .passThrough := by decide
theorem witness_kernel_arguments : (1 : Nat) ≤ 8388607 ∧ (8388607 : Nat) < 8388608
    ∧ (-8388608 : Int) ≤ -8388608 ∧ (-1 : Int) < 0 ∧ (-8388608 : Int) ≤ -1 := by decide
theorem witness_kernel_exponents : (6 : Nat) < 7 ∧ (7 : Nat) ≤ 7 ∧ (22 : Nat) ≤ 22 ∧ (1 : Nat) ≤ 1
    ∧ (16 : Nat) ≤ 16 := by decide
theorem witness_well_formed : (Instr.choSof ⟨true, true, true, true, true, false⟩ (.ramp .one)
    0xFFFF).wellFormed = true ∧ (Instr.wrlx (.gen 31) 0x8000).wellFormed = true := by decide
theorem witness_decodes : decode 0xFFE00001 = .ok (.rmpa 0x7FF) := by decide
theorem witness_bytes : bytesWords [0xFF, 0xE0, 0, 1] = some [0xFFE00001] := by decide
theorem witness_step_runs :
    let s := { State.reset with phase := .walk, pc := 127, plen := 128, prog := [(127, 0xFFE00001)] }
    s.phase = .walk ∧ s.pc.toNat < s.plen ∧ s.pc.toNat < 128
      ∧ decode (s.progWord s.pc.toNat) = .ok (.rmpa 0x7FF) := by decide
/-- The end of a walk with two writes to one slot scheduled. -/
def committing : State :=
  { State.reset with
    phase := .walk, plen := 128, pc := 191, wp := 32767, wq := [(0, 1), (5, 2), (0, 3)]
    dram := [(0, 7), (32767, 8)] }

theorem witness_commit : committing.phase = .walk ∧ committing.plen ≤ committing.pc.toNat
    ∧ DelayMemoryFormed committing := by decide
theorem witness_committed : ∃ t, step committing = .next t :=
  ⟨committing.commit, rfl⟩
theorem witness_write_then_read : ∃ t u v, exec (.wra 0 5) base = .next t
    ∧ exec (.rda 0 5) base = .next u ∧ exec (.rda 0 5) t = .next v :=
  ⟨_, _, _, rfl, rfl, rfl⟩
theorem witness_wrap_then_read : ∃ t u v, exec (.wrap 0 5) base = .next t
    ∧ exec (.rmpa 5) base = .next u ∧ exec (.rmpa 5) t = .next v :=
  ⟨_, _, _, rfl, rfl, rfl⟩
theorem witness_write_then_cho : ∃ t u v, exec (.wra 0 5) base = .next t
    ∧ exec (.choRda .empty (.ramp .one) 5) base = .next u
    ∧ exec (.choRda .empty (.ramp .one) 5) t = .next v :=
  ⟨_, _, _, rfl, rfl, rfl⟩
theorem witness_load_accepted :
    (Image.words s1).words? = some s1 ∧ s1.length ≤ 128 ∧ (∀ w ∈ s1, validWord w = true) :=
  ⟨rfl, by decide, List.all_eq_true.mp (by decide)⟩
theorem witness_load_requested : ({ State.reset with pending := [.load (.words s1)] } : State).phase
    = .between := by decide
theorem witness_load_truncated : (Image.bytes [0]).words? = none := by decide
theorem witness_load_too_long : ∃ ws, (Image.words (List.replicate 129 0x11#32)).words? = some ws
    ∧ 128 < ws.length := ⟨List.replicate 129 0x11#32, rfl, by rw [List.length_replicate]; decide⟩
theorem witness_load_invalid : ∃ ws, (Image.words [0x15]).words? = some ws
    ∧ ∃ w ∈ ws, validWord w = false := ⟨_, rfl, 0x15, by decide, by decide⟩
theorem witness_reset_unload : ({ State.reset with pending := [.reset, .unload] } : State).pending
    = .reset :: [.unload] ∧ ({ State.reset with pending := [.unload] } : State).pending
    = .unload :: [] := by decide
theorem witness_waiting : State.reset.phase = .between ∧ State.reset.pending = [] := by decide
theorem witness_snapshot : ({ State.reset with pending := [.snapshot] } : State).pending
    = .snapshot :: [] := by decide
theorem witness_step_clears : ∃ t, step { extreme with pending := [.unload], outL := 5 } = .next t :=
  ⟨_, rfl⟩
theorem witness_exec_next : ∃ t, exec (.wlds .one 511 16384) base = .next t := ⟨_, rfl⟩
theorem witness_exec_other : ∃ t, exec (.wra 0 5) base = .next t
    ∧ (∀ c n, Instr.wra 0 5 ≠ .skp c n) ∧ (∀ n, Instr.wra 0 5 ≠ .jmp n) :=
  ⟨_, rfl, nofun, nofun⟩
theorem witness_inv_between : Inv ready :=
  ⟨by decide, by decide, by decide, rfl, by decide, by decide, nofun⟩
theorem witness_inv_walk : Inv walking :=
  ⟨by decide, by decide, by decide, ⟨by decide, by decide⟩, by decide, by decide, nofun⟩
theorem witness_step_between : ∃ t, step ready = .next t := ⟨_, rfl⟩
theorem witness_step_walk : ∃ t, step walking = .next t ∧ walking.phase = .walk
    ∧ walking.pc.toNat < walking.plen := ⟨_, rfl, by decide, by decide⟩
theorem witness_assembled : ∃ ws, assembleImage "NOP".toList = .ok ws :=
  ⟨[0x11], by decide +kernel⟩

end Sys2Proof.Tests
end

/-! PROOFS. What the state keeps: the effect of an instruction and of a step, each said once by an
inversion lemma, and from them the frame of the instructions, the invariant of the machine, and when
the delay memory changes. -/

namespace Sys2Proof.Proofs

open Sys2Proof.Machine Sys2Proof.Safety Sys2Proof.Laws

/-! ### What an instruction does -/

/-- The instructions that leave ACC alone: SKP with its spellings, WLDS, WLDR and JAM. -/
def KeepsAcc (i : Instr) : Prop :=
  (∃ c n, i = .skp c n) ∨ i = .nop ∨ (∃ n, i = .jmp n) ∨ (∃ n f a, i = .wlds n f a)
    ∨ (∃ n f a, i = .wldr n f a) ∨ (∃ n, i = .jam n)

/-- The instructions that read the delay memory, and with it write LR. -/
def ReadsDelay (i : Instr) : Prop :=
  (∃ c a, i = .rda c a) ∨ (∃ c, i = .rmpa c) ∨ (∃ c o a, i = .choRda c o a)

/-- Everything a completed instruction can do to the state, by the shape of its update. -/
inductive Effect (s : State) : Instr → State → Prop where
  /-- ACC is written. -/
  | acc {i : Instr} (v : Word) (hi : ¬ KeepsAcc i) : Effect s i (s.setAcc v).advance
  /-- A delay read writes LR and ACC. -/
  | read {i : Instr} (v w : Word) (hi : ReadsDelay i) : Effect s i ((s.setLr w).setAcc v).advance
  /-- WRA and WRAP schedule ACC, then write it. -/
  | schedule {i : Instr} (c : BitVec 11) (a : BitVec 16) (v : Word)
      (hi : i = .wra c a ∨ i = .wrap c a) :
      Effect s i ((s.memWrite (delayAddr a) s.acc).setAcc v).advance
  /-- A store puts ACC into a register of `WRITABLE`, then writes ACC. -/
  | store {i : Instr} (r : Reg) (v : Word) (hi : registersWritten i = [r])
      (hr : r.writable = true) (hk : ¬ KeepsAcc i) :
      Effect s i ((s.setAcc v).writeReg r s.acc).advance
  | wlds (n : Osc) (f : BitVec 9) (a : BitVec 15) :
      Effect s (.wlds n f a) ((s.writePair (sineRateReg n) (sineRangeReg n) (sineRateWord f)
        (sineAmpWord a)).setSph n 0).advance
  | wldr (n : Osc) (f : BitVec 16) (a : BitVec 2) :
      Effect s (.wldr n f a) (s.writePair (rampRateReg n) (rampRangeReg n) (rampRateWord f)
        (rampCodeWord a)).advance
  | jam (n : Osc) : Effect s (.jam n) (s.setRph n 0).advance
  /-- SKP, NOP and JMP move the program counter. -/
  | skip {i : Instr} (n : BitVec 6)
      (hi : (∃ c m, i = .skp c m) ∨ (i = .nop ∧ n = 0) ∨ (∃ m, i = .jmp m)) :
      Effect s i (s.skip n)

/-- A skip that is not taken is a skip of length 0 (R236). -/
theorem skipIf_eq_skip (s : State) (taken : Bool) (n : BitVec 6) :
    s.skipIf taken n = s.skip (if taken then n else 0) := by
  cases taken with
  | true => rfl
  | false => simp [State.skipIf, State.skip, State.advance]

/-- A store that goes on has the effect of one. -/
theorem effect_of_storeThen {i : Instr} {s t : State} {r : Reg} {v : Word}
    (hi : registersWritten i = [r]) (hk : ¬ KeepsAcc i) (h : storeThen s r (s.setAcc v) = .next t) :
    Effect s i t := by
  obtain ⟨hr, rfl⟩ := storeThen_next h
  exact .store r v hi hr hk

/-- A guarded update that goes on is the update, as in the CHO forms (R118). -/
theorem next_of_guarded {p : Prop} [Decidable p] {s t : State} {e : Refusal}
    (h : (if p then Host.Outcome.next s else .refused e : Host.Outcome State Fault Refusal) = .next t) :
    t = s := by
  split at h
  · exact (Host.Outcome.next.inj h).symm
  · cases h

/-- Inversion of `exec`: an instruction that completes has one of the effects above. -/
theorem exec_effect {i : Instr} {s t : State} (h : exec i s = .next t) : Effect s i t := by
  cases i with
  | sof | log | exp | and | or | xor | clr | not | rdax | rdfx | maxx | mulx | ldax | absa =>
    obtain rfl := Host.Outcome.next.inj h
    exact .acc _ (by simp [KeepsAcc])
  | choSof | choRdal =>
    obtain rfl := next_of_guarded h
    exact .acc _ (by simp [KeepsAcc])
  | rda | rmpa =>
    obtain rfl := Host.Outcome.next.inj h
    exact .read _ _ (by simp [ReadsDelay])
  | choRda =>
    obtain rfl := next_of_guarded h
    exact .read _ _ (by simp [ReadsDelay])
  | wra c a =>
    obtain rfl := Host.Outcome.next.inj h
    exact .schedule c a _ (.inl rfl)
  | wrap c a =>
    obtain rfl := Host.Outcome.next.inj h
    exact .schedule c a _ (.inr rfl)
  | wrax | wrhx | wrlx => exact effect_of_storeThen rfl (by simp [KeepsAcc]) h
  | wlds n f a =>
    obtain rfl := Host.Outcome.next.inj h
    exact .wlds n f a
  | wldr n f a =>
    obtain rfl := Host.Outcome.next.inj h
    exact .wldr n f a
  | jam n =>
    obtain rfl := Host.Outcome.next.inj h
    exact .jam n
  | skp c n =>
    obtain rfl := Host.Outcome.next.inj h
    rw [skipIf_eq_skip]
    exact .skip _ (.inl ⟨c, n, rfl⟩)
  | nop =>
    obtain rfl := Host.Outcome.next.inj h
    rw [skipIf_eq_skip]
    exact .skip _ (.inr (.inl ⟨rfl, ite_self 0⟩))
  | jmp n =>
    obtain rfl := Host.Outcome.next.inj h
    rw [skipIf_eq_skip]
    exact .skip _ (.inr (.inr ⟨n, rfl⟩))

/-! ### The frame of the instructions -/

section Frame

variable {i : Instr} {s t : State}

/-- No effect reaches what `SameOutside` names. -/
theorem effect_sameOutside (h : Effect s i t) : SameOutside s t := by
  cases h with
  | acc v => exact sameOutside_trans (sameOutside_setAcc s v) (sameOutside_advance _)
  | read v w =>
    exact sameOutside_trans (sameOutside_setLr s w)
      (sameOutside_trans (sameOutside_setAcc _ v) (sameOutside_advance _))
  | schedule c a v =>
    exact sameOutside_trans (sameOutside_memWrite s (delayAddr a) s.acc)
      (sameOutside_trans (sameOutside_setAcc _ v) (sameOutside_advance _))
  | store r v =>
    exact sameOutside_trans (sameOutside_setAcc s v)
      (sameOutside_trans (sameOutside_writeReg _ r s.acc) (sameOutside_advance _))
  | wlds n f a =>
    exact sameOutside_trans (sameOutside_writePair s _ _ _ _)
      (sameOutside_trans (sameOutside_setSph _ n 0) (sameOutside_advance _))
  | wldr n f a => exact sameOutside_trans (sameOutside_writePair s _ _ _ _) (sameOutside_advance _)
  | jam n => exact sameOutside_trans (sameOutside_setRph s n 0) (sameOutside_advance _)
  | skip n => exact sameOutside_skip s n

/-- The pair of registers that WLDS writes. -/
theorem registersWritten_wlds (n : Osc) (f : BitVec 9) (a : BitVec 15) :
    registersWritten (.wlds n f a) = [sineRateReg n, sineRangeReg n] := by cases n <;> rfl

/-- The pair of registers that WLDR writes. -/
theorem registersWritten_wldr (n : Osc) (f : BitVec 16) (a : BitVec 2) :
    registersWritten (.wldr n f a) = [rampRateReg n, rampRangeReg n] := by cases n <;> rfl

/-- Only the registers an instruction writes change. -/
theorem effect_sameRegsBut (h : Effect s i t) : SameRegsBut (registersWritten i) s t := by
  intro q hq
  cases h with
  | acc | read | schedule | skip => rfl
  | store r v hi =>
    rw [hi, List.mem_singleton] at hq
    simp [hq]
  | wlds n =>
    rw [registersWritten_wlds] at hq
    simp_all
  | wldr n =>
    rw [registersWritten_wldr] at hq
    simp_all
  | jam n => simp

/-- An input register is none that a store may name (R38). -/
theorem ne_of_writable {q r : Reg} (hq : q ∈ inputRegs) (hr : r.writable = true) : q ≠ r := by
  rintro rfl
  exact (writable_iff q).1 hr hq

/-- The oscillator parameter registers are in `WRITABLE` (R38). -/
theorem oscillatorRegs_writable (n : Osc) :
    (sineRateReg n).writable = true ∧ (sineRangeReg n).writable = true
      ∧ (rampRateReg n).writable = true ∧ (rampRangeReg n).writable = true := by
  cases n <;> decide

/-- An instruction that completes writes no input register. -/
theorem effect_inputRegs (h : Effect s i t) {q : Reg} (hq : q ∈ inputRegs) :
    t.readReg q = s.readReg q := by
  cases h with
  | acc | read | schedule | skip => rfl
  | store r v _ hr => simp [ne_of_writable hq hr]
  | wlds n =>
    obtain ⟨hrate, hrange, _, _⟩ := oscillatorRegs_writable n
    simp [ne_of_writable hq hrate, ne_of_writable hq hrange]
  | wldr n =>
    obtain ⟨_, _, hrate, hrange⟩ := oscillatorRegs_writable n
    simp [ne_of_writable hq hrate, ne_of_writable hq hrange]
  | jam n => simp

/-- The queue stays, or WRA or WRAP puts one entry at its end. -/
theorem effect_wq (h : Effect s i t) :
    t.wq = s.wq ∨ ∃ c a, (i = .wra c a ∨ i = .wrap c a) ∧ t.wq = s.wq ++ [(delayAddr a, s.acc)] := by
  cases h with
  | schedule c a v hi => exact .inr ⟨c, a, hi, rfl⟩
  | acc | read | store | wldr | skip => exact .inl rfl
  | wlds | jam => exact .inl (by simp)

/-- LR changes only by a delay read. -/
theorem effect_lr (h : Effect s i t) : t.lr = s.lr ∨ ReadsDelay i := by
  cases h with
  | read v w hi => exact .inr hi
  | acc | schedule | store | wldr | skip => exact .inl rfl
  | wlds | jam => exact .inl (by simp)

/-- ACC stays under the instructions of `KeepsAcc`. -/
theorem effect_acc (h : Effect s i t) (hk : KeepsAcc i) : t.acc = s.acc := by
  cases h with
  | acc v hi => exact absurd hk hi
  | store r v _ _ hi => exact absurd hk hi
  | read v w hi => obtain ⟨c, a, rfl⟩ | ⟨c, rfl⟩ | ⟨c, o, a, rfl⟩ := hi <;> simp [KeepsAcc] at hk
  | schedule c a v hi => obtain rfl | rfl := hi <;> simp [KeepsAcc] at hk
  | wldr | skip => rfl
  | wlds | jam => simp

/-- A sine phase changes only to 0, by its WLDS; a ramp phase only to 0, by its JAM. -/
theorem effect_phases (h : Effect s i t) :
    (t.sph0 = s.sph0 ∨ (∃ f a, i = .wlds .zero f a) ∧ t.sph0 = 0)
      ∧ (t.sph1 = s.sph1 ∨ (∃ f a, i = .wlds .one f a) ∧ t.sph1 = 0)
      ∧ (t.rph0 = s.rph0 ∨ i = .jam .zero ∧ t.rph0 = 0)
      ∧ (t.rph1 = s.rph1 ∨ i = .jam .one ∧ t.rph1 = 0) := by
  cases h with
  | acc | read | schedule | store | wldr | skip => exact ⟨.inl rfl, .inl rfl, .inl rfl, .inl rfl⟩
  | wlds n | jam n => cases n <;> simp

/-- An instruction moves the counter on by one, and a skip by at most 63 more (R143, R236). -/
theorem effect_pc (h : Effect s i t) : ∃ n : BitVec 6, t.pc = s.pc + 1 + n.setWidth 8 := by
  cases h with
  | skip n => exact ⟨n, rfl⟩
  | acc | read | schedule | store | wlds | wldr | jam =>
    exact ⟨0, by simp⟩

end Frame

/-- Settles O53: each clause is read off the effect of the instruction. -/
theorem instructionsKeepTheirFrame : Obligations.InstructionsKeepTheirFrame := by
  intro i s t h
  have he := exec_effect h
  exact ⟨effect_sameOutside he, effect_sameRegsBut he, fun _ hq => effect_inputRegs he hq,
    effect_wq he, effect_lr he, effect_acc he, effect_phases he⟩

/-! ### What a step does -/

/-- Everything a step that goes on can be. -/
inductive Stepped (s : State) : State → Prop where
  /-- Between ticks, with no host action requested. -/
  | waiting (hp : s.phase = .between) (hq : s.pending = []) : Stepped s s
  /-- Between ticks, the next host action. -/
  | host {a : HostAction} {rest : List HostAction} (hp : s.phase = .between)
      (hq : s.pending = a :: rest) :
      Stepped s (({ s with pending := rest } : State).perform a)
  /-- The end of the walk. -/
  | commit (hp : s.phase = .walk) (hpc : s.plen ≤ s.pc.toNat) : Stepped s s.commit
  /-- One instruction of the walk. -/
  | instr {i : Instr} {t : State} (hp : s.phase = .walk) (hpc : s.pc.toNat < s.plen)
      (hslot : s.pc.toNat < Config.nInstr) (h : exec i s = .next t) : Stepped s t

/-- A fetched word comes from a slot of the program that exists (R144). -/
theorem fetch_word {s : State} {w : Word32} (h : s.fetch = .word w) :
    s.pc.toNat < s.plen ∧ s.pc.toNat < Config.nInstr := by
  unfold State.fetch at h
  split at h
  · cases h
  · split at h
    · cases h
    · omega

/-- The walk ends where PC has reached PLEN (R144). -/
theorem fetch_walkOver {s : State} (h : s.fetch = .walkOver) : s.plen ≤ s.pc.toNat := by
  unfold State.fetch at h
  split at h
  · assumption
  · split at h <;> cases h

/-- Inversion of `step`. -/
theorem step_stepped {s t : State} (h : step s = .next t) : Stepped s t := by
  cases hp : s.phase with
  | between =>
    cases hq : s.pending with
    | nil =>
      rw [step_waiting hp hq] at h
      obtain rfl := Host.Outcome.next.inj h
      exact .waiting hp hq
    | cons a rest =>
      rw [step_perform hp hq] at h
      obtain rfl := Host.Outcome.next.inj h
      exact .host hp hq
  | walk =>
    unfold step at h
    simp only [hp] at h
    split at h
    · rename_i hf
      obtain rfl := Host.Outcome.next.inj h
      exact .commit hp (fetch_walkOver hf)
    · cases h
    · rename_i w hf
      obtain ⟨hpc, hslot⟩ := fetch_word hf
      split at h
      · exact .instr hp hpc hslot h
      · cases h

/-! ### What a host action does -/

/-- A refused `Load` gives only its verdict (R323). -/
theorem load_refused {img : Image} (h : acceptImage img = none) (s : State) :
    s.load img = { s with loadOk := false } := by
  simp only [State.load, h]

/-- An accepted `Load` installs the program over the state of reset (R324). -/
theorem load_accepted {img : Image} {ws : List Word32} (h : acceptImage img = some ws) (s : State) :
    s.load img = { s.cleared with
      mode := .loaded, prog := programCells 0 ws, plen := ws.length, loadOk := true } := by
  simp only [State.load, h]

/-- An accepted image fits the program memory, and its words are valid (R322). -/
theorem acceptImage_some {img : Image} {ws : List Word32} (h : acceptImage img = some ws) :
    ws.length ≤ Config.nInstr ∧ ∀ w ∈ ws, validWord w = true := by
  unfold acceptImage at h
  split at h
  · cases h
  · split at h
    · rename_i hok
      obtain rfl := Option.some.inj h
      exact ⟨hok.1, List.all_eq_true.1 hok.2⟩
    · cases h

/-- A tick in Idle writes the two outputs (R140). -/
theorem idleTick_eq (s : State) (i : TickInput) :
    ∃ l r, s.idleTick i = { s with outL := l, outR := r } := by
  unfold State.idleTick
  split <;> exact ⟨_, _, rfl⟩

/-! ### The delay memory -/

/-- Whether a host action clears the delay memory: Reset, Unload, and a Load that is accepted. -/
def Clears (a : HostAction) : Prop :=
  a = .reset ∨ a = .unload ∨ ∃ img ws, a = .load img ∧ acceptImage img = some ws

/-- A host action keeps the delay memory, or clears it. -/
theorem perform_dram (s : State) (a : HostAction) :
    (s.perform a).dram = s.dram ∨ Clears a ∧ (s.perform a).dram = [] := by
  cases a with
  | reset => exact .inr ⟨.inl rfl, rfl⟩
  | unload => exact .inr ⟨.inr (.inl rfl), rfl⟩
  | snapshot => exact .inl rfl
  | load img =>
    show (s.load img).dram = s.dram ∨ _ ∧ (s.load img).dram = []
    cases h : acceptImage img with
    | none =>
      rw [load_refused h]
      exact .inl rfl
    | some ws =>
      rw [load_accepted h]
      exact .inr ⟨.inr (.inr ⟨img, ws, rfl, h⟩), rfl⟩
  | tick i =>
    left
    simp only [State.perform]
    split
    · obtain ⟨l, r, h⟩ := idleTick_eq s i
      rw [h]
    · rw [beginTick_eq]

/-- Settles O58, by the kinds of step: a host action keeps or clears, an instruction has its frame. -/
theorem delayMemoryChangesOnlyAtCommitOrClearing :
    Obligations.DelayMemoryChangesOnlyAtCommitOrClearing := by
  intro s t h
  cases step_stepped h with
  | waiting => exact .inl fun _ => rfl
  | @host a rest hp hq =>
    obtain hd | ⟨ha, hd⟩ := perform_dram { s with pending := rest } a
    · exact .inl fun p => by rw [State.dramSlot, hd]; rfl
    · exact .inr (.inr ⟨hp, ⟨a, rest, hq, ha⟩, fun p => by rw [State.dramSlot, hd]; rfl⟩)
  | commit hp hpc => exact .inr (.inl ⟨hp, hpc⟩)
  | instr _ _ _ hi => exact .inl (effect_sameOutside (exec_effect hi)).delayMemory

/-! ### Reset and the refusals -/

/-- Settles O47. -/
theorem resetZeroesEverything : Obligations.ResetZeroesEverything := by
  refine ⟨rfl, rfl, fun _ => rfl, rfl, rfl, rfl, rfl, rfl, regs_read_zero, fun _ => rfl, ?_⟩
  decide

/-- Settles O52: the guards of the stores and of the CHO forms. -/
theorem illFormedTermsAreRefused : Obligations.IllFormedTermsAreRefused := by
  intro s
  refine ⟨fun r c hr => ?_, fun c o a h => ?_, fun c o h => ?_⟩
  · have hw : r.writable = false := by
      rw [← Bool.not_eq_true, writable_iff]
      exact not_not_intro hr
    exact ⟨storeThen_readOnly hw, storeThen_readOnly hw, storeThen_readOnly hw⟩
  · simp [exec, execChoRda, execChoSof, h]
  · simp [exec, execChoRdal, h]

/-! ### The oscillator latch stays in range -/

/-- A sine output lies in the range of R252, whatever the kernel's value and the amplitude. -/
theorem sineValue_bounded {k : Int} (h1 : -8388607 ≤ k) (h2 : k ≤ 8388607) (range : Word) :
    SineBounded (sineValue k range) := by
  have ha : ((sineAmpField range).toNat : Int) ≤ 32767 := by
    have := (sineAmpField range).isLt
    omega
  have hlow : -8388607 * 32767 ≤ k * (sineAmpField range).toNat := by nlinarith
  have hhigh : k * (sineAmpField range).toNat ≤ 8388607 * 32767 := by nlinarith
  unfold SineBounded sineValue
  rw [toInt_ofInt24 (by omega) (by omega)]
  omega

/-- A ramp phase advanced lies below its modulus (R256). -/
theorem rampAdvance_lt (phase : BitVec 26) (rate range : Word) :
    (rampAdvance phase rate range).toNat < 2 ^ (26 - (rampCodeField range).toNat) := by
  have hpos : (0 : Int) < 2 ^ (26 - (rampCodeField range).toNat) := by positivity
  have hnonneg := Int.emod_nonneg ((phase.toNat : Int) - (rampRateField rate).toInt) hpos.ne'
  have hlt := Int.emod_lt_of_pos ((phase.toNat : Int) - (rampRateField rate).toInt) hpos
  have hfits : (2 : Int) ^ (26 - (rampCodeField range).toNat) ≤ 2 ^ 26 :=
    pow_le_pow_right₀ (by norm_num) (Nat.sub_le _ _)
  unfold rampAdvance
  rw [BitVec.toNat_ofInt, Int.emod_eq_of_lt hnonneg (by exact_mod_cast hlt.trans_le hfits)]
  zify
  rwa [Int.toNat_of_nonneg hnonneg]

/-- A ramp output lies in the range of R257 after the advance. -/
theorem rampValue_bounded (phase : BitVec 26) (rate range : Word) :
    RampBounded (rampValue (rampAdvance phase rate range)) (rampCodeField range) := by
  have h := rampAdvance_lt phase rate range
  have hcode := (rampCodeField range).isLt
  have hpow : 2 ^ (26 - (rampCodeField range).toNat) = 2 ^ (22 - (rampCodeField range).toNat) * 16 := by
    rw [show 26 - (rampCodeField range).toNat = 22 - (rampCodeField range).toNat + 4 by omega, pow_add]
    rfl
  unfold RampBounded rampValue
  rw [BitVec.extractLsb'_toNat, Nat.shiftRight_eq_div_pow]
  refine (Nat.mod_le _ _).trans_lt ?_
  omega

/-- The latch of a tick that begins is in range (R252, R257). -/
theorem beginTick_latchBounded (s : State) (i : TickInput) : LatchBounded (s.beginTick i) := by
  have hsin (p : Nat) (range : Word) : SineBounded (sineValue (sinfn s.cfg.sinCos p) range) :=
    sineValue_bounded (sinfn_bounds _ p).1 (sinfn_bounds _ p).2 range
  have hcos (p : Nat) (range : Word) : SineBounded (sineValue (cosfn s.cfg.sinCos p) range) :=
    sineValue_bounded (cosfn_bounds _ p).1 (cosfn_bounds _ p).2 range
  rw [beginTick_eq]
  exact ⟨hsin _ _, hsin _ _, hcos _ _, hcos _ _, rampValue_bounded _ _ _, rampValue_bounded _ _ _⟩

/-! ### The invariant -/

/-- The spec's state is the same whatever the ports and the waiting actions are. -/
theorem sameCore_ports {s u : State} (h : SameCore s u) (p : List HostAction) (l r : Word) (k : Bool) :
    SameCore { s with pending := p, outL := l, outR := r, loadOk := k } u := by
  obtain ⟨⟩ := h
  constructor <;> assumption

/-- The invariant does not speak of the ports, nor of the waiting actions. -/
theorem inv_ports {s : State} (h : Inv s) (p : List HostAction) (l r : Word) (k : Bool) :
    Inv { s with pending := p, outL := l, outR := r, loadOk := k } where
  programFits := h.programFits
  programValid := h.programValid
  delayMemoryFormed := h.delayMemoryFormed
  queueBounded := h.queueBounded
  counterBounded := h.counterBounded
  latchBounded := h.latchBounded
  idleIsReset hm :=
    have ⟨hp, hc⟩ := h.idleIsReset hm
    ⟨hp, sameCore_ports hc p l r k⟩

/-- Inside a walk the core is Loaded. -/
theorem not_idle_of_walk {s : State} (h : Inv s) (hp : s.phase = .walk) : s.mode ≠ .idle := by
  intro hm
  have hb := (h.idleIsReset hm).1
  rw [hp] at hb
  cases hb

/-- Settles O55. -/
theorem resetHasInvariant : Obligations.ResetHasInvariant where
  programFits := by decide
  programValid := nofun
  delayMemoryFormed := rfl
  queueBounded := rfl
  counterBounded := by decide
  latchBounded := by decide
  idleIsReset _ := ⟨rfl, by constructor <;> rfl⟩

/-- The state of reset with any ports and parameters has the invariant. -/
theorem inv_cleared (s : State) : Inv s.cleared :=
  have h := resetHasInvariant
  { programFits := h.programFits, programValid := h.programValid
    delayMemoryFormed := h.delayMemoryFormed, queueBounded := h.queueBounded
    counterBounded := h.counterBounded, latchBounded := h.latchBounded
    idleIsReset := fun _ => ⟨rfl, by constructor <;> rfl⟩ }

/-- `Load`, accepted or refused, keeps the invariant. -/
theorem inv_load {s : State} (h : Inv s) (img : Image) : Inv (s.load img) := by
  cases ha : acceptImage img with
  | none =>
    rw [load_refused ha]
    exact inv_ports h s.pending s.outL s.outR false
  | some ws =>
    obtain ⟨hlen, hvalid⟩ := acceptImage_some ha
    have hc := inv_cleared s
    rw [load_accepted ha]
    exact
      { programFits := ⟨hlen, wfFrom_programCells ws 0 (Nat.zero_add _).le⟩
        programValid := fun i hi => by
          have hi' : i < ws.length := hi
          rw [State.progWord, read_programCells, if_pos (Nat.zero_le i), Nat.sub_zero,
            List.getD_eq_getElem _ _ hi']
          exact hvalid _ (List.getElem_mem hi')
        delayMemoryFormed := hc.delayMemoryFormed
        queueBounded := hc.queueBounded
        counterBounded := hc.counterBounded
        latchBounded := hc.latchBounded
        idleIsReset := nofun }

/-- The start of a tick on a Loaded core keeps the invariant. -/
theorem inv_beginTick {s : State} (h : Inv s) (hm : s.mode = .loaded) (i : TickInput) :
    Inv (s.beginTick i) where
  programFits := h.programFits
  programValid := h.programValid
  delayMemoryFormed := h.delayMemoryFormed
  queueBounded := ⟨Nat.le_refl 0, Nat.zero_le _⟩
  counterBounded := Nat.zero_le _
  latchBounded := beginTick_latchBounded s i
  idleIsReset hidle := absurd (hm.symm.trans hidle) (by decide)

/-- Every host action keeps the invariant. -/
theorem inv_perform {s : State} (h : Inv s) (a : HostAction) : Inv (s.perform a) := by
  cases a with
  | reset | unload => exact inv_cleared s
  | snapshot => exact h
  | load img => exact inv_load h img
  | tick i =>
    simp only [State.perform]
    split
    · obtain ⟨l, r, ht⟩ := idleTick_eq s i
      rw [ht]
      exact inv_ports h s.pending l r s.loadOk
    · rename_i hm
      exact inv_beginTick h hm i

/-- The commit keeps the invariant. -/
theorem inv_commit {s : State} (h : Inv s) (hp : s.phase = .walk) : Inv s.commit where
  programFits := h.programFits
  programValid := h.programValid
  delayMemoryFormed := wf_commitWrites s.wp s.wq h.delayMemoryFormed
  queueBounded := rfl
  counterBounded := h.counterBounded
  latchBounded := h.latchBounded
  idleIsReset hm := absurd (show s.mode = .idle from hm) (not_idle_of_walk h hp)

/-- From a slot that exists an instruction moves the counter forward, and by at most 64 (R23). -/
theorem effect_pc_bounds {i : Instr} {s t : State} (h : Effect s i t) (hpc : s.pc.toNat < 128) :
    s.pc.toNat + 1 ≤ t.pc.toNat ∧ t.pc.toNat ≤ s.pc.toNat + 64 := by
  obtain ⟨n, hn⟩ := effect_pc h
  have := n.isLt
  have ht : t.pc.toNat = s.pc.toNat + 1 + n.toNat := by
    rw [hn]
    bv_omega
  omega

/-- An instruction schedules at most one write. -/
theorem effect_wq_length {i : Instr} {s t : State} (h : Effect s i t) :
    t.wq.length ≤ s.wq.length + 1 := by
  obtain hw | ⟨c, a, _, hw⟩ := effect_wq h <;> simp [hw]

/-- Inside a walk the bound on the queue is the one by the counter. -/
theorem queueBounded_of_walk {s : State} (hp : s.phase = .walk) :
    QueueBounded s ↔ s.wq.length ≤ s.pc.toNat ∧ s.wq.length ≤ 128 := by
  simp only [QueueBounded, hp]

/-- An instruction of the walk keeps the invariant: the frame keeps most of it, and the counter moves
with the queue. -/
theorem inv_of_effect {i : Instr} {s t : State} (h : Inv s) (hp : s.phase = .walk)
    (hpc : s.pc.toNat < 128) (he : Effect s i t) : Inv t := by
  have hf := effect_sameOutside he
  have hwalk : t.phase = .walk := hf.phase.trans hp
  obtain ⟨hlow, hhigh⟩ := effect_pc_bounds he hpc
  have hlen := effect_wq_length he
  have hq := (queueBounded_of_walk hp).1 h.queueBounded
  constructor
  case programFits => rw [ProgramFits, hf.plen, hf.prog]; exact h.programFits
  case programValid => simpa only [ProgramValid, State.progWord, hf.plen, hf.prog] using h.programValid
  case delayMemoryFormed => rw [DelayMemoryFormed, hf.dramEntries]; exact h.delayMemoryFormed
  case queueBounded => rw [queueBounded_of_walk hwalk]; omega
  case counterBounded => show t.pc.toNat ≤ 191; omega
  case latchBounded =>
    rw [LatchBounded, hf.sinv0, hf.sinv1, hf.cosv0, hf.cosv1, hf.rmpv0, hf.rmpv1, hf.rmpc0, hf.rmpc1]
    exact h.latchBounded
  case idleIsReset => exact fun hm => absurd (hf.mode.symm.trans hm) (not_idle_of_walk h hp)

/-- Settles O56, by the kinds of step. -/
theorem stepKeepsInvariant : Obligations.StepKeepsInvariant := by
  intro s t h hstep
  cases step_stepped hstep with
  | waiting => exact h
  | @host a rest => exact inv_perform (inv_ports h rest s.outL s.outR s.loadOk) a
  | commit hp => exact inv_commit h hp
  | instr hp _ hslot hi => exact inv_of_effect h hp hslot (exec_effect hi)

end Sys2Proof.Proofs

/-! PROOFS. The memories as the host and the program see them: the byte form of an image, the delay
memory across a commit, and the delay reads after a write of the same tick. -/

namespace Sys2Proof.Proofs

open Sys2Proof.Machine Sys2Proof.Safety Sys2Proof.Laws

/-! ### The bytes of an image -/

/-- The four fields of a word, put together again, are the word (R124). -/
theorem append_fields (w : Word32) :
    w.extractLsb' 24 8 ++ w.extractLsb' 16 8 ++ w.extractLsb' 8 8 ++ w.extractLsb' 0 8 = w := by
  apply BitVec.eq_of_toNat_eq
  rw [append4_toNat]
  simp only [field_toNat]
  omega

/-- The bytes of a word as numbers: its base-256 digits, most significant first (R72). -/
theorem wordBytes_map_toNat (w : Word32) :
    (wordBytes w).map BitVec.toNat
      = [w.toNat / 16777216, w.toNat / 65536 % 256, w.toNat / 256 % 256, w.toNat % 256] := by
  simp only [wordBytes, List.map_cons, List.map_nil, field_toNat, List.cons.injEq, and_true]
  omega

/-- The bytes of four bytes put together are those four. -/
theorem wordBytes_append4 (b0 b1 b2 b3 : Byte) :
    wordBytes (b0 ++ b1 ++ b2 ++ b3) = [b0, b1, b2, b3] := by
  apply List.map_injective_iff.2 (fun _ _ => BitVec.eq_of_toNat_eq)
  rw [wordBytes_map_toNat, append4_toNat]
  simp only [List.map_cons, List.map_nil, List.cons.injEq, and_true]
  omega

/-- Reading words from the bytes of a word and a tail: that word, then the words of the tail. -/
theorem bytesWords_wordBytes_append (w : Word32) (b : List Byte) :
    bytesWords (wordBytes w ++ b) = (bytesWords b).map (w :: ·) := by
  simp only [wordBytes, List.cons_append, List.nil_append, bytesWords, append_fields]
  cases bytesWords b <;> rfl

/-- The bytes of a program read back as its words. -/
theorem bytesWords_flatMap_wordBytes (ws : List Word32) :
    bytesWords (ws.flatMap wordBytes) = some ws := by
  induction ws with
  | nil => rfl
  | cons w ws ih => rw [List.flatMap_cons, bytesWords_wordBytes_append, ih, Option.map_some]

/-- A byte string that reads as words is the bytes of those words. -/
theorem eq_flatMap_of_bytesWords {b : List Byte} {ws : List Word32} (h : bytesWords b = some ws) :
    b = ws.flatMap wordBytes := by
  induction b using bytesWords.induct generalizing ws with
  | case1 =>
    obtain rfl := Option.some.inj h
    rfl
  | case2 b0 b1 b2 b3 rest vs hrest ih =>
    simp only [bytesWords, hrest, Option.some.injEq] at h
    subst h
    rw [List.flatMap_cons, wordBytes_append4, ← ih hrest]
    rfl
  | case3 b0 b1 b2 b3 rest hrest => simp [bytesWords, hrest] at h
  | case4 b hnil hcons => simp [bytesWords] at h

/-- Each word has four bytes. -/
theorem length_flatMap_wordBytes (ws : List Word32) :
    (ws.flatMap wordBytes).length = 4 * ws.length := by
  induction ws with
  | nil => rfl
  | cons w ws ih =>
    rw [List.flatMap_cons, List.length_append, ih, List.length_cons]
    simp only [wordBytes, List.length_cons, List.length_nil]
    omega

/-- Settles O40: both directions of the round trip, and the digits of one word. -/
theorem imageBytesAreBigEndian : Obligations.ImageBytesAreBigEndian := by
  refine ⟨bytesWords_flatMap_wordBytes, fun b ws h => ?_, wordBytes_map_toNat⟩
  obtain rfl := eq_flatMap_of_bytesWords h
  exact ⟨length_flatMap_wordBytes ws, rfl⟩

/-! ### The delay memory across a commit -/

/-- Under one write pointer, logical addresses are one to one with slots (R65). -/
theorem physSlot_inj {wp a b : BitVec 15} : physSlot wp a = physSlot wp b ↔ a = b := by
  rw [physSlot, physSlot, BitVec.toNat_inj, sub_right_inj]

/-- The slot of an address is that of the next address under the next write pointer (R69). -/
theorem physSlot_succ (wp a : BitVec 15) : physSlot (wp + 1) (a + 1) = physSlot wp a := by
  rw [physSlot, physSlot, add_sub_add_right_eq_sub]

/-- What a logical address reads after the commit, by the slot of the address below (R68, R69). -/
theorem commit_memRead_succ (s : State) (a : BitVec 15) (h : DelayMemoryFormed s) :
    s.commit.memRead (a + 1) =
      match s.wq.reverse.find? (fun e => e.1 == a) with
      | some e => e.2
      | none => s.memRead a := by
  have hslot : (fun e : BitVec 15 × Word => physSlot s.wp e.1 == physSlot s.wp a)
      = fun e => e.1 == a := by
    funext e
    rw [Bool.eq_iff_iff, beq_iff_eq, beq_iff_eq, physSlot_inj]
  rw [State.memRead, State.dramSlot, commit_wp, commit_dram, physSlot_succ,
    read_commitWrites _ _ _ h, hslot]
  rfl

/-- Settles O44: the step is the commit. -/
theorem committedWordMovesUpOneAddress : Obligations.CommittedWordMovesUpOneAddress := by
  intro s t a hphase hover hformed hstep
  rw [step_commit hphase hover] at hstep
  obtain rfl := Host.Outcome.next.inj hstep
  exact commit_memRead_succ s a hformed

/-! ### Delay reads after a write of the same tick -/

/-- RDA latches the word at its address field (R221). -/
theorem lr_of_exec_rda {c : BitVec 11} {a : BitVec 16} {s t : State}
    (h : exec (.rda c a) s = .next t) : t.lr = s.memRead (delayAddr a) := by
  obtain rfl := Host.Outcome.next.inj h
  rfl

/-- RMPA latches the word at the address in ADDR_PTR (R222). -/
theorem lr_of_exec_rmpa {c : BitVec 11} {s t : State} (h : exec (.rmpa c) s = .next t) :
    t.lr = s.memRead (pointerAddr (s.readReg .addrPtr)) := by
  obtain rfl := Host.Outcome.next.inj h
  rfl

/-- CHO RDA latches the word at its address field displaced by the selected offset (R266). -/
theorem lr_of_exec_choRda {f : ChoFlags} {o : Lfo} {a : BitVec 16} {s t : State}
    (h : exec (.choRda f o a) s = .next t) :
    t.lr = s.memRead (displacedAddr a (lfoSelect s f o).off) := by
  obtain rfl := next_of_guarded h
  rfl

/-- The delay memory, by logical address, is among what no instruction touches (R66). -/
theorem memRead_of_sameOutside {s t : State} (h : SameOutside s t) (a : BitVec 15) :
    t.memRead a = s.memRead a := by
  rw [State.memRead, State.memRead, h.wp, h.delayMemory]

/-- The selector of CHO reads the latch alone, which no instruction touches (R264). -/
theorem lfoSelect_of_sameOutside {s t : State} (h : SameOutside s t) (f : ChoFlags) (o : Lfo) :
    lfoSelect t f o = lfoSelect s f o := by
  cases o with
  | sine n =>
    have hlatch : t.sineLatch n f.cos = s.sineLatch n f.cos := by
      cases n <;> cases f.cos <;> simp only [State.sineLatch, h.sinv0, h.sinv1, h.cosv0, h.cosv1]
    rw [lfoSelect, lfoSelect, hlatch]
  | ramp n =>
    have hlatch : t.rampLatch n = s.rampLatch n := by
      cases n <;> simp only [State.rampLatch, h.rmpv0, h.rmpv1]
    have hcode : t.rampCode n = s.rampCode n := by
      cases n <;> simp only [State.rampCode, h.rmpc0, h.rmpc1]
    rw [lfoSelect, lfoSelect, hlatch, hcode]

/-- A delay read latches the same word in two states that agree on ADDR_PTR and on what no instruction
touches. -/
theorem lr_of_delayRead_congr {i : Instr} {s t u v : State} (hout : SameOutside s t)
    (hptr : t.readReg .addrPtr = s.readReg .addrPtr) (hread : ReadsDelay i)
    (hu : exec i s = .next u) (hv : exec i t = .next v) : v.lr = u.lr := by
  obtain ⟨c, a, rfl⟩ | ⟨c, rfl⟩ | ⟨f, o, a, rfl⟩ := hread
  · rw [lr_of_exec_rda hu, lr_of_exec_rda hv, memRead_of_sameOutside hout]
  · rw [lr_of_exec_rmpa hu, lr_of_exec_rmpa hv, hptr, memRead_of_sameOutside hout]
  · rw [lr_of_exec_choRda hu, lr_of_exec_choRda hv, lfoSelect_of_sameOutside hout,
      memRead_of_sameOutside hout]

/-- Settles O45: WRA and WRAP only schedule, so all that a delay read depends on stays. -/
theorem readsNeverSeeSameTickWrites : Obligations.ReadsNeverSeeSameTickWrites := by
  intro c a i s t u v hwrite hread hu hv
  have hframe : SameOutside s t ∧ SameRegsBut [] s t := by
    obtain h | h := hwrite <;>
      exact ⟨effect_sameOutside (exec_effect h), effect_sameRegsBut (exec_effect h)⟩
  obtain ⟨hout, hregs⟩ := hframe
  exact lr_of_delayRead_congr hout (hregs .addrPtr List.not_mem_nil) hread hu hv

end Sys2Proof.Proofs

/-! PROOFS. Encoding: the fields of a word, what the decoder answers on them, and from that the two
round trips, the validity predicate and the images of the assembler. -/

namespace Sys2Proof.Proofs

open Sys2Proof.Machine Sys2Proof.Safety Sys2Proof.Laws

/-! ### The fields of a word -/

/-- A field of an instruction word: its width and what it holds. -/
structure WordField where
  width : Nat
  value : BitVec width

/-- From bit `lo` up to bit 31, the word holds these fields, one next to the other. -/
def Holds (w : Word32) : Nat → List WordField → Prop
  | lo, [] => 32 ≤ lo
  | lo, f :: fs => w.extractLsb' lo f.width = f.value ∧ Holds w (lo + f.width) fs

/-- Words with the same fields have the same bits. -/
theorem getLsbD_of_holds {x y : Word32} {lo : Nat} {fs : List WordField} (hx : Holds x lo fs)
    (hy : Holds y lo fs) {k : Nat} (hlo : lo ≤ k) (hk : k < 32) : x.getLsbD k = y.getLsbD k := by
  induction fs generalizing lo with
  | nil => exact absurd hk (by simpa [Holds] using le_trans hx hlo)
  | cons f fs ih =>
    obtain ⟨hxf, hxs⟩ := hx
    obtain ⟨hyf, hys⟩ := hy
    by_cases hin : k < lo + f.width
    · have hbit := congrArg (BitVec.getLsbD · (k - lo)) (hxf.trans hyf.symm)
      simpa [show k - lo < f.width by omega, hlo] using hbit
    · exact ih hxs hys (by omega)

/-- A word is determined by its fields. -/
theorem eq_of_holds {x y : Word32} {fs : List WordField} (hx : Holds x 0 fs) (hy : Holds y 0 fs) :
    x = y :=
  BitVec.eq_of_getLsbD_eq fun _ hk => getLsbD_of_holds hx hy (Nat.zero_le _) hk

/-- A field of one bit holds that bit. -/
@[simp] theorem field_one_eq_ofBool {w : Word32} {lo : Nat} {b : Bool} :
    w.extractLsb' lo 1 = BitVec.ofBool b ↔ w.getLsbD lo = b := by
  have hbit : (w.extractLsb' lo 1).getLsbD 0 = w.getLsbD lo := by simp
  have hext : ∀ (x : BitVec 1) (c : Bool), x = BitVec.ofBool c ↔ x.getLsbD 0 = c := by decide
  rw [hext, hbit]

/-- A reserved bit is 0. -/
theorem field_one_eq_zero {w : Word32} {lo : Nat} :
    w.extractLsb' lo 1 = 0 ↔ w.getLsbD lo = false :=
  field_one_eq_ofBool (b := false)

/-- The flag set and the oscillator of a CHO word, with the reserved bit between them (R99). -/
def choFields (t : BitVec 2) (c : ChoFlags) (o : Lfo) (a : BitVec 16) : List WordField :=
  [⟨16, a⟩, ⟨1, .ofBool o.number.bit⟩, ⟨1, .ofBool o.kind⟩, ⟨1, .ofBool false⟩, ⟨1, .ofBool c.cos⟩,
    ⟨1, .ofBool c.reg⟩, ⟨1, .ofBool c.compc⟩, ⟨1, .ofBool c.compa⟩, ⟨1, .ofBool c.rptr2⟩,
    ⟨1, .ofBool c.na⟩, ⟨2, t⟩]

/-- The fields above the opcode, from bit 5 up, the reserved ones included (R91 to R99). -/
def operandFields : MachineInstr → List WordField
  | .rda c a | .wra c a | .wrap c a => [⟨16, a⟩, ⟨11, c⟩]
  | .rmpa c => [⟨16, 0⟩, ⟨11, c⟩]
  | .rdax r c | .rdfx r c | .wrax r c | .wrhx r c | .wrlx r c | .maxx r c =>
    [⟨6, r.addr⟩, ⟨5, 0⟩, ⟨16, c⟩]
  | .mulx r => [⟨6, r.addr⟩, ⟨21, 0⟩]
  | .log c d | .exp c d | .sof c d => [⟨11, d⟩, ⟨16, c⟩]
  | .and m | .or m | .xor m => [⟨3, 0⟩, ⟨24, m⟩]
  | .skp c n =>
    [⟨16, 0⟩, ⟨6, n⟩, ⟨1, .ofBool c.neg⟩, ⟨1, .ofBool c.gez⟩, ⟨1, .ofBool c.zro⟩,
      ⟨1, .ofBool c.zrc⟩, ⟨1, .ofBool c.run⟩]
  | .wlds n f a => [⟨15, a⟩, ⟨9, f⟩, ⟨1, .ofBool n.bit⟩, ⟨2, 0⟩]
  | .wldr n f a => [⟨2, a⟩, ⟨6, 0⟩, ⟨16, f⟩, ⟨1, .ofBool n.bit⟩, ⟨2, 1⟩]
  | .jam n => [⟨1, .ofBool false⟩, ⟨1, .ofBool n.bit⟩, ⟨1, .ofBool true⟩, ⟨24, 0⟩]
  | .choRda c o a => choFields 0 c o a
  | .choSof c o d => choFields 2 c o d
  | .choRdal c o => choFields 3 c o 0

/-- The word has the opcode of the instruction and holds its operands. -/
def Spells (w : Word32) (i : MachineInstr) : Prop :=
  w.extractLsb' 0 5 = OpcodeField.opcode i.instr ∧ Holds w 5 (operandFields i)

/-- Two words that spell the same instruction are the same. -/
theorem eq_of_spells {x y : Word32} {i : MachineInstr} (hx : Spells x i) (hy : Spells y i) :
    x = y :=
  eq_of_holds (fs := ⟨5, OpcodeField.opcode i.instr⟩ :: operandFields i) hx hy

/-! ### What the encoder writes -/

/-- The opcode field of a word the encoder writes. -/
theorem opcode_encode (i : MachineInstr) :
    (encode i.instr).extractLsb' 0 5 = OpcodeField.opcode i.instr := by
  cases i with
  | rda c a => exact OpcodeField.rda c a
  | rmpa c => exact OpcodeField.rmpa c
  | wra c a => exact OpcodeField.wra c a
  | wrap c a => exact OpcodeField.wrap c a
  | rdax r c => exact OpcodeField.rdax r c
  | rdfx r c => exact OpcodeField.rdfx r c
  | wrax r c => exact OpcodeField.wrax r c
  | wrhx r c => exact OpcodeField.wrhx r c
  | wrlx r c => exact OpcodeField.wrlx r c
  | maxx r c => exact OpcodeField.maxx r c
  | mulx r => exact OpcodeField.mulx r
  | log c d => exact OpcodeField.log c d
  | exp c d => exact OpcodeField.exp c d
  | sof c d => exact OpcodeField.sof c d
  | and m => exact OpcodeField.and m
  | or m => exact OpcodeField.or m
  | xor m => exact OpcodeField.xor m
  | skp c n => exact OpcodeField.skp c n
  | wlds n f a => exact OpcodeField.wlds n f a
  | wldr n f a => exact OpcodeField.wldr n f a
  | jam n => exact OpcodeField.jam n
  | choRda c o a => exact OpcodeField.choRda c o a
  | choSof c o d => exact OpcodeField.choSof c o d
  | choRdal c o => exact OpcodeField.choRdal c o

/-- The fields of the layout C of R91 (R99). -/
theorem holds_encodeC (t : BitVec 2) (c : ChoFlags) (o : Lfo) (a : BitVec 16) :
    Holds (encodeC t c o a) 5 (choFields t c o a) := by
  simp (disch := omega) [Holds, choFields, encodeC, ChoFlags.place, Lfo.place,
    field_place_same, field_place_above, field_place_below]

/-- The encoder puts every operand where the layouts of R91 have it, and 0 on the reserved bits. -/
theorem holds_encode (i : MachineInstr) : Holds (encode i.instr) 5 (operandFields i) := by
  cases i with
  | choRda c o a | choSof c o d | choRdal c o => exact holds_encodeC _ _ _ _
  | rdax r c | rdfx r c | wrax r c | wrhx r c | wrlx r c | maxx r c =>
    simp (disch := omega) [Holds, operandFields, encode, MachineInstr.instr, encodeR,
      field_place_same, field_place_above, field_place_below]
  | skp c n =>
    simp (disch := omega) [Holds, operandFields, encode, MachineInstr.instr, SkpCond.place,
      field_place_same, field_place_above, field_place_below]
  | _ =>
    simp (disch := omega) [Holds, operandFields, encode, MachineInstr.instr,
      field_place_same, field_place_above, field_place_below]

/-- The word of an instruction spells it. -/
theorem spells_encode (i : MachineInstr) : Spells (encode i.instr) i :=
  ⟨opcode_encode i, holds_encode i⟩

/-! ### What the parts of the decoder answer -/

/-- The address decoder answers the register with that address (R29). -/
theorem ofAddr?_eq_some {a : BitVec 6} {r : Reg} : Reg.ofAddr? a = some r ↔ a = r.addr := by
  have haddr : ∀ b : BitVec 6, ∀ q ∈ Reg.ofAddr? b, b = q.addr := by decide
  exact ⟨haddr a r, fun h => h ▸ ofAddr?_addr r⟩

/-- A guarded answer is given exactly when the guard holds. -/
theorem ite_error_eq_ok {p : Prop} [Decidable p] {x : Except Reject MachineInstr} {e : Reject}
    {i : MachineInstr} : (if p then x else .error e) = .ok i ↔ p ∧ x = .ok i := by
  split <;> simp [*]

/-- A reserved field lets through what follows exactly when it is 0 (R115). -/
theorem decodeZero_eq_ok {n : Nat} {field : BitVec n} {x : Except Reject MachineInstr}
    {i : MachineInstr} : decodeZero field x = .ok i ↔ field = 0 ∧ x = .ok i :=
  ite_error_eq_ok

/-- A register operand is any implemented register (R37, R38). -/
theorem decodeReadable_eq_ok {w : Word32} {k : Reg → MachineInstr} {i : MachineInstr} :
    decodeReadable w k = .ok i ↔ ∃ r : Reg, w.extractLsb' 5 6 = r.addr ∧ k r = i := by
  simp only [decodeReadable, ← ofAddr?_eq_some]
  cases Reg.ofAddr? (w.extractLsb' 5 6) <;> simp

/-- The register operand of a store is a writable register (R38). -/
theorem decodeWritable_eq_ok {w : Word32} {k : Reg → MachineInstr} {i : MachineInstr} :
    decodeWritable w k = .ok i ↔
      ∃ r : Reg, w.extractLsb' 5 6 = r.addr ∧ r.writable = true ∧ k r = i := by
  simp only [decodeWritable, ← ofAddr?_eq_some]
  cases Reg.ofAddr? (w.extractLsb' 5 6) <;> simp [ite_error_eq_ok]

/-- Opcode 0x12 by its sub-operation: WLDS or WLDR (R97, R116). -/
theorem decodeLoadLfo_eq_ok {w : Word32} {i : MachineInstr} :
    decodeLoadLfo w = .ok i ↔
      (w.extractLsb' 30 2 = 0
        ∧ .wlds (Osc.ofBit (w.getLsbD 29)) (w.extractLsb' 20 9) (w.extractLsb' 5 15) = i)
      ∨ (w.extractLsb' 30 2 = 1 ∧ w.extractLsb' 7 6 = 0
        ∧ .wldr (Osc.ofBit (w.getLsbD 29)) (w.extractLsb' 13 16) (w.extractLsb' 5 2) = i) := by
  unfold decodeLoadLfo
  generalize w.extractLsb' 30 2 = t
  match t with
  | 0#2 | 1#2 | 2#2 | 3#2 => simp [decodeZero_eq_ok]

/-- Opcode 0x13: bit 7 is 1, and the other bits around the select are 0 (R98). -/
theorem decodeJam_eq_ok {w : Word32} {i : MachineInstr} :
    decodeJam w = .ok i ↔
      w.extractLsb' 8 24 = 0 ∧ w.getLsbD 5 = false ∧ w.getLsbD 7 = true
        ∧ .jam (Osc.ofBit (w.getLsbD 6)) = i := by
  simp only [decodeJam, decodeZero_eq_ok, ite_error_eq_ok, field_one_eq_zero, Except.ok.injEq]

/-- Opcode 0x14 by its sub-operation, each with the flags it allows (R99, R118). -/
theorem decodeCho_eq_ok {w : Word32} {i : MachineInstr} {c : ChoFlags} {o : Lfo}
    (hc : ChoFlags.ofWord w = c) (ho : Lfo.ofBits (w.getLsbD 22) (w.getLsbD 21) = o) :
    decodeCho w = .ok i ↔
      w.getLsbD 23 = false ∧
        ((w.extractLsb' 30 2 = 0 ∧ c.allowed o = true ∧ .choRda c o (w.extractLsb' 5 16) = i)
        ∨ (w.extractLsb' 30 2 = 2 ∧ c.allowed o = true ∧ .choSof c o (w.extractLsb' 5 16) = i)
        ∨ (w.extractLsb' 30 2 = 3 ∧ w.extractLsb' 5 16 = 0 ∧ c.allowedRdal o = true
            ∧ .choRdal c o = i)) := by
  simp only [decodeCho, hc, ho, decodeZero_eq_ok, field_one_eq_zero]
  generalize w.extractLsb' 30 2 = t
  match t with
  | 0#2 | 1#2 | 2#2 | 3#2 => simp [decodeZero_eq_ok, ite_error_eq_ok]

/-! ### What the decoder answers -/

/-- The select bit of the oscillator that a bit names is that bit (R97, R98). -/
@[simp] theorem bit_ofBit (b : Bool) : (Osc.ofBit b).bit = b := by cases b <;> rfl

/-- The kind of the oscillator that two bits name is the first of them (R99). -/
@[simp] theorem kind_ofBits (b c : Bool) : (Lfo.ofBits b c).kind = b := by cases b <;> rfl

/-- The number of the oscillator that two bits name is the second of them (R99). -/
@[simp] theorem number_ofBits (b c : Bool) : (Lfo.ofBits b c).number = Osc.ofBit c := by
  cases b <;> rfl

/-- A CHO word holds the flags and the oscillator that the decoder reads there (R99). -/
theorem holds_choFields_iff {w : Word32} {t : BitVec 2} {c : ChoFlags} {o : Lfo} {a : BitVec 16} :
    Holds w 5 (choFields t c o a) ↔
      ChoFlags.ofWord w = c ∧ Lfo.ofBits (w.getLsbD 22) (w.getLsbD 21) = o ∧ w.getLsbD 23 = false
        ∧ w.extractLsb' 5 16 = a ∧ w.extractLsb' 30 2 = t := by
  simp only [Holds, choFields, field_one_eq_ofBool, Nat.reduceAdd]
  constructor
  · intro h
    simp [h, ChoFlags.ofWord, -BitVec.getLsbD_eq_getElem]
  · rintro ⟨rfl, rfl, h23, rfl, rfl⟩
    simp [h23, ChoFlags.ofWord, -BitVec.getLsbD_eq_getElem]

/-- A word that is decoded spells the instruction, which is well-formed. -/
theorem spells_of_decode {w : Word32} {i : MachineInstr} (h : decode w = .ok i) :
    Spells w i ∧ i.instr.wellFormed = true := by
  unfold decode at h
  split at h
  -- RDA, WRA, WRAP, LOG, EXP, SOF: every bit is an operand's
  case h_1 hop | h_3 hop | h_4 hop | h_12 hop | h_13 hop | h_14 hop =>
    obtain rfl := Except.ok.inj h
    exact ⟨⟨BitVec.eq_of_toNat_eq hop, by simp [Holds, operandFields]⟩, rfl⟩
  -- RMPA, AND, OR, XOR: one reserved field
  case h_2 hop | h_15 hop | h_16 hop | h_17 hop =>
    obtain ⟨hres, h⟩ := decodeZero_eq_ok.1 h
    obtain rfl := Except.ok.inj h
    exact ⟨⟨BitVec.eq_of_toNat_eq hop, by simp [Holds, operandFields, hres]⟩, rfl⟩
  -- SKP
  case h_18 hop =>
    obtain ⟨hres, h⟩ := decodeZero_eq_ok.1 h
    obtain rfl := Except.ok.inj h
    exact ⟨⟨BitVec.eq_of_toNat_eq hop, by simp [Holds, operandFields, hres, SkpCond.ofWord]⟩, rfl⟩
  -- RDAX, RDFX, MAXX, MULX
  case h_5 hop | h_6 hop | h_10 hop | h_11 hop =>
    obtain ⟨hres, h⟩ := decodeZero_eq_ok.1 h
    obtain ⟨r, hr, rfl⟩ := decodeReadable_eq_ok.1 h
    exact ⟨⟨BitVec.eq_of_toNat_eq hop, by simp [Holds, operandFields, hres, hr]⟩, rfl⟩
  -- WRAX, WRHX, WRLX
  case h_7 hop | h_8 hop | h_9 hop =>
    obtain ⟨hres, h⟩ := decodeZero_eq_ok.1 h
    obtain ⟨r, hr, hwf, rfl⟩ := decodeWritable_eq_ok.1 h
    exact ⟨⟨BitVec.eq_of_toNat_eq hop, by simp [Holds, operandFields, hres, hr]⟩, hwf⟩
  -- WLDS, WLDR
  case h_19 hop =>
    obtain ⟨ht, rfl⟩ | ⟨ht, hres, rfl⟩ := decodeLoadLfo_eq_ok.1 h
    · exact ⟨⟨BitVec.eq_of_toNat_eq hop, by simp [Holds, operandFields, ht]⟩, rfl⟩
    · exact ⟨⟨BitVec.eq_of_toNat_eq hop, by simp [Holds, operandFields, ht, hres]⟩, rfl⟩
  -- JAM
  case h_20 hop =>
    obtain ⟨hhigh, h5, h7, rfl⟩ := decodeJam_eq_ok.1 h
    refine ⟨⟨BitVec.eq_of_toNat_eq hop, ?_⟩, rfl⟩
    simp only [Holds, operandFields, field_one_eq_ofBool, hhigh, h5, h7, bit_ofBit, Nat.reduceAdd,
      le_refl, and_self]
  -- CHO
  case h_21 hop =>
    obtain ⟨h23, hsub⟩ := (decodeCho_eq_ok rfl rfl).1 h
    obtain ⟨ht, hwf, rfl⟩ | ⟨ht, hwf, rfl⟩ | ⟨ht, hres, hwf, rfl⟩ := hsub
    · exact ⟨⟨BitVec.eq_of_toNat_eq hop, holds_choFields_iff.2 ⟨rfl, rfl, h23, rfl, ht⟩⟩, hwf⟩
    · exact ⟨⟨BitVec.eq_of_toNat_eq hop, holds_choFields_iff.2 ⟨rfl, rfl, h23, rfl, ht⟩⟩, hwf⟩
    · exact ⟨⟨BitVec.eq_of_toNat_eq hop, holds_choFields_iff.2 ⟨rfl, rfl, h23, hres, ht⟩⟩, hwf⟩
  case h_22 => cases h

/-- A word that spells a well-formed instruction is decoded to it. -/
theorem decode_of_spells {w : Word32} {i : MachineInstr} (h : Spells w i)
    (hwf : i.instr.wellFormed = true) : decode w = .ok i := by
  obtain ⟨hop, hfields⟩ := h
  cases i with
  | choRda c o a | choSof c o d | choRdal c o =>
    obtain ⟨hc, ho, h23, ha, ht⟩ := holds_choFields_iff.1 hfields
    simp only [MachineInstr.instr, OpcodeField.opcode] at hop
    simp only [decode, hop]
    refine (decodeCho_eq_ok hc ho).2 ⟨h23, ?_⟩
    simpa [ht, ha, MachineInstr.instr, Instr.wellFormed] using hwf
  | rdax r c | rdfx r c | maxx r c | mulx r =>
    simp only [Holds, operandFields, Nat.reduceAdd] at hfields
    simp only [decode, hop, MachineInstr.instr, OpcodeField.opcode]
    simp [decodeZero_eq_ok, decodeReadable_eq_ok, hfields]
  | wrax r c | wrhx r c | wrlx r c =>
    simp only [Holds, operandFields, Nat.reduceAdd] at hfields
    simp only [decode, hop, MachineInstr.instr, OpcodeField.opcode]
    simpa [decodeZero_eq_ok, decodeWritable_eq_ok, hfields, MachineInstr.instr,
      Instr.wellFormed] using hwf
  | skp c n =>
    simp only [Holds, operandFields, field_one_eq_ofBool, Nat.reduceAdd] at hfields
    simp only [decode, hop, MachineInstr.instr, OpcodeField.opcode]
    simp [decodeZero_eq_ok, SkpCond.ofWord, hfields, -BitVec.getLsbD_eq_getElem]
  | wlds n f a | wldr n f a | jam n =>
    simp only [Holds, operandFields, field_one_eq_ofBool, Nat.reduceAdd] at hfields
    simp only [decode, hop, MachineInstr.instr, OpcodeField.opcode]
    simp [decodeLoadLfo_eq_ok, decodeJam_eq_ok, hfields, -BitVec.getLsbD_eq_getElem]
  | _ =>
    simp only [Holds, operandFields, Nat.reduceAdd] at hfields
    simp only [decode, hop, MachineInstr.instr, OpcodeField.opcode]
    simp [decodeZero_eq_ok, hfields]

/-! ### The validity predicate -/

/-- The readable addresses are those of the registers (R38). -/
theorem readableAddr_iff {a : BitVec 6} : readableAddr a = true ↔ ∃ r : Reg, a = r.addr := by
  have hsome : ∀ b : BitVec 6, readableAddr b = (Reg.ofAddr? b).isSome := by decide
  simp only [hsome, Option.isSome_iff_exists, ofAddr?_eq_some]

/-- The writable addresses are those of the writable registers (R38). -/
theorem writableAddr_iff {a : BitVec 6} :
    writableAddr a = true ↔ ∃ r : Reg, a = r.addr ∧ r.writable = true := by
  have hany : ∀ b : BitVec 6, writableAddr b = (Reg.ofAddr? b).any Reg.writable := by decide
  simp only [hany, Option.any_eq_true, ofAddr?_eq_some]

/-- A reserved field of 0 leaves the answer to what follows (R115). -/
theorem decodeZero_answers_iff {n : Nat} {field : BitVec n} {x : Except Reject MachineInstr} :
    (∃ i, decodeZero field x = .ok i) ↔ field = 0 ∧ ∃ i, x = .ok i := by
  simp only [decodeZero_eq_ok, exists_and_left]

/-- A register operand is accepted exactly at the readable addresses (R38). -/
theorem decodeReadable_answers_iff {w : Word32} {k : Reg → MachineInstr} :
    (∃ i, decodeReadable w k = .ok i) ↔ readableAddr (w.extractLsb' 5 6) = true := by
  simp only [decodeReadable_eq_ok, readableAddr_iff]
  exact ⟨fun ⟨_, r, hr, _⟩ => ⟨r, hr⟩, fun ⟨r, hr⟩ => ⟨k r, r, hr, rfl⟩⟩

/-- The register operand of a store is accepted exactly at the writable addresses (R38). -/
theorem decodeWritable_answers_iff {w : Word32} {k : Reg → MachineInstr} :
    (∃ i, decodeWritable w k = .ok i) ↔ writableAddr (w.extractLsb' 5 6) = true := by
  simp only [decodeWritable_eq_ok, writableAddr_iff]
  exact ⟨fun ⟨_, r, hr, hw, _⟩ => ⟨r, hr, hw⟩, fun ⟨r, hr, hw⟩ => ⟨k r, r, hr, hw, rfl⟩⟩

/-- Opcode 0x12: the clause of R120. -/
theorem decodeLoadLfo_answers_iff {w : Word32} :
    (∃ i, decodeLoadLfo w = .ok i) ↔
      (!w.getLsbD 31 && (!w.getLsbD 30 || w.extractLsb' 7 6 == 0)) = true := by
  have hhigh : w.getLsbD 31 = (w.extractLsb' 30 2).getLsbD 1 := by simp
  have hlow : w.getLsbD 30 = (w.extractLsb' 30 2).getLsbD 0 := by simp
  simp only [decodeLoadLfo_eq_ok, exists_or, exists_and_left, hhigh, hlow]
  generalize w.extractLsb' 30 2 = t
  match t with
  | 0#2 | 1#2 | 2#2 | 3#2 => simp

/-- Opcode 0x13: the clause of R120. -/
theorem decodeJam_answers_iff {w : Word32} :
    (∃ i, decodeJam w = .ok i) ↔
      (w.extractLsb' 8 24 == 0 && w.getLsbD 7 && !w.getLsbD 5) = true := by
  simp [decodeJam_eq_ok, and_comm, and_left_comm, -BitVec.getLsbD_eq_getElem]

/-- The flags that both CHO kinds exclude, by the bits of the word (R118). -/
theorem allowed_ofWord (w : Word32) :
    (ChoFlags.ofWord w).allowed (.ofBits (w.getLsbD 22) (w.getLsbD 21))
      = ((w.getLsbD 22 || (!w.getLsbD 29 && !w.getLsbD 28))
        && (!w.getLsbD 22 || !w.getLsbD 24)) := by
  cases h : w.getLsbD 22 <;>
    simp [ChoFlags.allowed, ChoFlags.ofWord, Lfo.ofBits, Bool.and_comm]

/-- Opcode 0x14: the clauses of R120. -/
theorem decodeCho_answers_iff {w : Word32} :
    (∃ i, decodeCho w = .ok i) ↔
      (!w.getLsbD 23
        && !(w.extractLsb' 30 2 == 0b01#2)
        && (w.getLsbD 22 || (!w.getLsbD 29 && !w.getLsbD 28))
        && (!w.getLsbD 22 || !w.getLsbD 24)
        && (!(w.extractLsb' 30 2 == 0b11#2)
          || (w.extractLsb' 5 16 == 0 && !w.getLsbD 29 && !w.getLsbD 26))) = true := by
  simp only [decodeCho_eq_ok rfl rfl, exists_or, exists_and_left, ChoFlags.allowedRdal,
    allowed_ofWord]
  generalize w.extractLsb' 30 2 = t
  match t with
  | 0#2 | 1#2 | 2#2 | 3#2 =>
    simp [ChoFlags.ofWord, and_assoc, and_comm, and_left_comm, -BitVec.getLsbD_eq_getElem]

/-- The decoder and `ValidWord`, opcode by opcode (R120). -/
theorem decode_answers_iff (w : Word32) : (∃ i, decode w = .ok i) ↔ validWord w = true := by
  unfold decode validWord
  generalize (w.extractLsb' 0 5).toNat = op
  split
  -- RDA, WRA, WRAP, LOG, EXP, SOF
  case h_1 | h_3 | h_4 | h_12 | h_13 | h_14 => simp
  -- RMPA, AND, OR, XOR, SKP
  case h_2 | h_15 | h_16 | h_17 | h_18 => simp [decodeZero_answers_iff]
  -- RDAX, RDFX, MAXX, MULX
  case h_5 | h_6 | h_10 | h_11 => simp [decodeZero_answers_iff, decodeReadable_answers_iff]
  -- WRAX, WRHX, WRLX
  case h_7 | h_8 | h_9 => simp [decodeZero_answers_iff, decodeWritable_answers_iff]
  case h_19 => exact decodeLoadLfo_answers_iff
  case h_20 => exact decodeJam_answers_iff
  case h_21 => exact decodeCho_answers_iff
  -- the unassigned opcodes (R116)
  case h_22 => simp_all

/-! ### The obligations on words -/

/-- A well-formed machine instruction is read back from its word (R121). -/
theorem decode_encode {i : MachineInstr} (hwf : i.instr.wellFormed = true) :
    decode (encode i.instr) = .ok i :=
  decode_of_spells (spells_encode i) hwf

/-- Settles O36: the word of an instruction spells it; a pseudo-instruction has the word of its
expansion. -/
theorem decodeOfEncode : Obligations.DecodeOfEncode := by
  refine ⟨fun i => decode_encode, fun i hwf => ?_⟩
  rw [← encode_machine]
  exact decode_encode ((wellFormed_machine i).trans hwf)

/-- Settles O37: the word that was decoded and the word of the instruction spell the same. -/
theorem encodeOfDecode : Obligations.EncodeOfDecode := by
  intro w i h
  obtain ⟨hspells, hwf⟩ := spells_of_decode h
  exact ⟨eq_of_spells (spells_encode i) hspells, hwf⟩

/-- Settles O38: the decoder and the predicate, opcode by opcode. -/
theorem decodesExactlyValidWords : Obligations.DecodesExactlyValidWords := decode_answers_iff

/-! ### Assembled images -/

/-- A program whose instructions meet the side conditions of R120. -/
def WellFormedProgram (p : List MachineInstr) : Prop := ∀ i ∈ p, i.instr.wellFormed = true

/-- Pass 2 gives one well-formed machine instruction for each statement (R139). -/
theorem buildAll_ok {t : Symbols} {plen i : Nat} {statements : List (Name × List Expr)}
    {p : List MachineInstr} (h : buildAll t plen i statements = .ok p) :
    p.length = statements.length ∧ WellFormedProgram p := by
  induction statements generalizing i p with
  | nil =>
    obtain rfl := Except.ok.inj h
    exact ⟨rfl, List.forall_mem_nil _⟩
  | cons statement rest ih =>
    rw [buildAll] at h
    split at h
    · cases h
    next instr _ =>
      split at h
      next hwf =>
        split at h
        · cases h
        next tail htail =>
          obtain rfl := Except.ok.inj h
          obtain ⟨hlen, htail⟩ := ih htail
          refine ⟨congrArg (· + 1) hlen, List.forall_mem_cons.2 ⟨?_, htail⟩⟩
          rw [wellFormed_machine, hwf]
      · cases h

/-- An assembled program fits the program memory and is well-formed (R139, R120). -/
theorem assemble_ok {text : List Char} {p : List MachineInstr} (h : assemble text = .ok p) :
    p.length ≤ Config.nInstr ∧ WellFormedProgram p := by
  unfold assemble at h
  split at h
  · cases h
  next lines _ =>
    dsimp only at h
    split at h
    · cases h
    split at h
    · cases h
    next hfits =>
      split at h
      · cases h
      split at h
      · cases h
      obtain ⟨hlen, hwf⟩ := buildAll_ok h
      exact ⟨hlen ▸ Nat.not_lt.1 hfits, hwf⟩

/-- A well-formed program is read back from its words (R121). -/
theorem decodeProgram_encodeProgram {p : List MachineInstr} (h : WellFormedProgram p) :
    decodeProgram (encodeProgram p) = .ok p := by
  induction p with
  | nil => rfl
  | cons i p ih =>
    obtain ⟨hi, hp⟩ := List.forall_mem_cons.1 h
    have htail : List.mapM decode (encodeProgram p) = .ok p := ih hp
    rw [decodeProgram, encodeProgram, List.map_cons, List.mapM_cons, ← encodeProgram, htail,
      decode_encode hi]
    rfl

/-- The words of a well-formed program are valid (R120). -/
theorem validWord_of_mem_encodeProgram {p : List MachineInstr} (h : WellFormedProgram p) :
    ∀ w ∈ encodeProgram p, validWord w = true := by
  intro w hw
  obtain ⟨i, hi, rfl⟩ := List.mem_map.1 hw
  exact (decode_answers_iff _).1 ⟨i, decode_encode (h i hi)⟩

/-- An image of valid words that fits the program memory is acceptable (R322). -/
theorem acceptImage_words {ws : List Word32} (hlen : ws.length ≤ Config.nInstr)
    (hvalid : ∀ w ∈ ws, validWord w = true) : acceptImage (.words ws) = some ws :=
  if_pos ⟨hlen, List.all_eq_true.2 hvalid⟩

/-- Settles O60: an assembled program is short and well-formed, and so are its words. -/
theorem assembledImagesRoundTrip : Obligations.AssembledImagesRoundTrip := by
  intro text ws h
  unfold assembleImage at h
  split at h
  · cases h
  next program hprogram =>
    obtain rfl := Except.ok.inj h
    obtain ⟨hfits, hwf⟩ := assemble_ok hprogram
    have hlen : (encodeProgram program).length = program.length := List.length_map _
    exact ⟨acceptImage_words (hlen ▸ hfits) (validWord_of_mem_encodeProgram hwf), program, hprogram,
      hlen, decodeProgram_encodeProgram hwf⟩

end Sys2Proof.Proofs

/-! PROOFS. The tick sequence: when an instruction completes and where it leaves the counter, the start
and the end of a tick, that nothing stops the machine, and that a requested tick ends. -/

namespace Sys2Proof.Proofs

open Sys2Proof.Machine Sys2Proof.Safety Sys2Proof.Laws

/-! ### When an instruction completes, and where it leaves the counter -/

/-- Settles O51: only the stores and the CHO forms have a guard, and well-formedness is that guard. -/
theorem wellFormedInstructionsComplete : Obligations.WellFormedInstructionsComplete := by
  intro i s hwf
  cases i with
  | wrax | wrhx | wrlx => exact ⟨_, storeThen_writable hwf⟩
  | choRda | choSof | choRdal => exact ⟨_, if_pos hwf⟩
  | rda | rmpa | wra | wrap | rdax | rdfx | maxx | mulx | log | exp | sof | and | or | xor | skp
  | wlds | wldr | jam | clr | not | absa | ldax | nop | jmp => exact ⟨_, rfl⟩

/-- Settles O54: of the effects only a skip moves the counter otherwise, and NOP is a skip of
length 0. -/
theorem instructionsAdvanceByOne : Obligations.InstructionsAdvanceByOne := by
  intro i s t h hskp hjmp
  cases exec_effect h with
  | acc | read | schedule | store | wldr => rfl
  | wlds | jam => simp
  | skip n hi =>
    obtain ⟨c, m, rfl⟩ | ⟨_, rfl⟩ | ⟨m, rfl⟩ := hi
    · exact absurd rfl (hskp c m)
    · simp
    · exact absurd rfl (hjmp m)

/-! ### One step of the walk -/

/-- Settles O41: the fetch finds the word in slot PC, and the step runs what it decodes to. -/
theorem stepRunsDecodedInstruction : Obligations.StepRunsDecodedInstruction := by
  intro s i hwalk hpc hslot hdecode
  have hfetch : s.fetch = .word (s.progWord s.pc.toNat) := by
    rw [State.fetch, if_neg (Nat.not_le.2 hpc), if_neg (Nat.not_le.2 hslot)]
  simp only [step, hwalk, hfetch, hdecode]

/-- Under the invariant a step before the end of the walk is an instruction that completes: its word
is valid, so it decodes to a well-formed instruction (R22, R145). -/
theorem step_effect_of_walk {s : State} (h : Inv s) (hwalk : s.phase = .walk)
    (hpc : s.pc.toNat < s.plen) :
    s.pc.toNat < 128 ∧ ∃ i t, step s = .next t ∧ Effect s i t := by
  have hslot : s.pc.toNat < 128 := hpc.trans_le h.programFits.1
  obtain ⟨i, hdecode⟩ := (decode_answers_iff _).2 (h.programValid _ hpc)
  obtain ⟨_, hwf⟩ := spells_of_decode hdecode
  obtain ⟨t, ht⟩ := wellFormedInstructionsComplete i.instr s hwf
  exact ⟨hslot, i.instr, t,
    (stepRunsDecodedInstruction s i hwalk hpc hslot hdecode).trans ht, exec_effect ht⟩

/-- Settles O57: a host action always goes on, and in a walk a step is the commit or an instruction that
completes. -/
theorem nothingStopsTheMachine : Obligations.NothingStopsTheMachine := by
  intro s h
  cases hphase : s.phase with
  | between =>
    cases hpending : s.pending with
    | nil => exact ⟨_, step_waiting hphase hpending⟩
    | cons => exact ⟨_, step_perform hphase hpending⟩
  | walk =>
    obtain hpc | hover := Nat.lt_or_ge s.pc.toNat s.plen
    · obtain ⟨_, _, t, ht, _⟩ := step_effect_of_walk h hphase hpc
      exact ⟨t, ht⟩
    · exact ⟨_, step_commit hphase hover⟩

/-! ### A tick request -/

/-- A tick request on a Loaded core begins the tick (R140, R141). -/
theorem step_tick_loaded {s : State} {i : TickInput} {rest : List HostAction}
    (hphase : s.phase = .between) (hmode : s.mode = .loaded) (hpending : s.pending = .tick i :: rest) :
    step s = .next (({ s with pending := rest } : State).beginTick i) := by
  rw [step_perform hphase hpending]
  simp only [State.perform, hmode]

/-- A tick request on an Idle core drives the outputs (R140). -/
theorem step_tick_idle {s : State} {i : TickInput} {rest : List HostAction}
    (hphase : s.phase = .between) (hmode : s.mode = .idle) (hpending : s.pending = .tick i :: rest) :
    step s = .next (({ s with pending := rest } : State).idleTick i) := by
  rw [step_perform hphase hpending]
  simp only [State.perform, hmode]

/-- Settles O42: the step begins the tick, whose register file is the latched one. -/
theorem tickBeginsByLatchingInputs : Obligations.TickBeginsByLatchingInputs := by
  intro s i rest hphase hmode hpending
  refine ⟨_, step_tick_loaded hphase hmode hpending, ?_⟩
  rw [beginTick_eq]
  have hregs (r : Reg) (hr : r ∉ inputRegs) : (s.regs.latch i).read r = s.regs.read r :=
    regs_read_latch s.regs i r hr
  exact ⟨rfl, rfl, rfl, rfl, rfl, hregs, rfl, rfl, rfl, rfl, rfl, rfl, rfl, rfl, rfl, rfl, rfl, rfl,
    fun _ => rfl, rfl, rfl, rfl⟩

/-- The two outputs that a tick in Idle drives, for either choice of `IDLE_OUT` (R140). -/
theorem idleTick_outputs (s : State) (i : TickInput) :
    (s.cfg.idleOut = .zero → (s.idleTick i).outL = 0 ∧ (s.idleTick i).outR = 0)
      ∧ (s.cfg.idleOut = .passThrough → (s.idleTick i).outL = i.inL ∧ (s.idleTick i).outR = i.inR) := by
  constructor <;> intro h <;> simp only [State.idleTick, h, and_self]

/-- Settles O46: a tick in Idle writes the two outputs alone. -/
theorem idleTickChangesNothing : Obligations.IdleTickChangesNothing := by
  intro s i rest hphase hmode hpending
  refine ⟨_, step_tick_idle hphase hmode hpending, ?_⟩
  obtain ⟨hzero, hpass⟩ := idleTick_outputs { s with pending := rest } i
  obtain ⟨l, r, ht⟩ := idleTick_eq { s with pending := rest } i
  rw [ht] at hzero hpass ⊢
  exact ⟨by constructor <;> rfl, rfl, hphase, hzero, hpass⟩

/-! ### The commit -/

/-- A slot of the delay memory after the commit, by the queue entries of that slot (R68). -/
theorem commit_dramSlot (s : State) (p : Nat) (h : DelayMemoryFormed s) :
    s.commit.dramSlot p =
      match s.wq.reverse.find? (fun e => slotOf s.wp.toNat e.1.toNat == p) with
      | some e => e.2
      | none => s.dramSlot p := by
  have hslot (a : BitVec 15) : slotOf s.wp.toNat a.toNat = physSlot s.wp a :=
    (physSlot_eq_slotOf (Nat.mod_eq_of_lt a.isLt).symm).symm
  simp only [hslot]
  exact read_commitWrites s.wp s.wq s.dram h p

/-- Settles O43: the step is the commit. -/
theorem commitEndsTheTick : Obligations.CommitEndsTheTick := by
  intro s hphase hover hformed
  have hwp : (s.wp + 1).toNat = (s.wp.toNat + 1) % 32768 := BitVec.toNat_add s.wp 1
  exact ⟨s.commit, step_commit hphase hover, fun p => commit_dramSlot s p hformed, rfl, hwp, rfl, rfl,
    rfl, rfl, rfl, fun _ _ => rfl, ⟨rfl, rfl, rfl, rfl⟩, rfl, rfl, rfl, rfl, rfl, rfl, rfl, rfl, rfl,
    rfl, rfl, rfl, rfl, rfl, rfl⟩

/-! ### The whole tick -/

/-- A run begins with its first step. -/
theorem runSteps_succ {s t : State} (h : step s = .next t) (k : Nat) :
    runSteps (k + 1) s = runSteps k t := by
  simp only [runSteps, h]

/-- A walk ends within as many instructions as lie between PC and PLEN, and the next step is the commit:
PC rises with every instruction (R144, R147). -/
theorem runSteps_to_commit (n : Nat) {s : State} (h : Inv s) (hwalk : s.phase = .walk)
    (hn : s.plen ≤ s.pc.toNat + n) :
    ∃ k u, k ≤ n + 1 ∧ runSteps k s = .next u.commit ∧ SameOutside s u := by
  induction n generalizing s with
  | zero =>
    exact ⟨1, s, Nat.le_refl 1, runSteps_succ (step_commit hwalk hn) 0, sameOutside_refl s⟩
  | succ n ih =>
    obtain hpc | hover := Nat.lt_or_ge s.pc.toNat s.plen
    · obtain ⟨hslot, i, t, ht, he⟩ := step_effect_of_walk h hwalk hpc
      have hframe := effect_sameOutside he
      obtain ⟨hnext, _⟩ := effect_pc_bounds he hslot
      have hplen := hframe.plen
      obtain ⟨k, u, hk, hrun, hu⟩ :=
        ih (stepKeepsInvariant s t h ht) (hframe.phase.trans hwalk) (by omega)
      exact ⟨k + 1, u, by omega, (runSteps_succ ht k).trans hrun, sameOutside_trans hframe hu⟩
    · exact ⟨1, s, by omega, runSteps_succ (step_commit hwalk hover) 0, sameOutside_refl s⟩

/-- Settles O59: the start of the tick, its walk from PC 0, and the commit; what the walk leaves alone
the state after the commit has from the start of the tick. -/
theorem requestedTickCompletes : Obligations.RequestedTickCompletes := by
  intro s i rest h hmode hphase hpending
  have hstart := step_tick_loaded hphase hmode hpending
  have hinv := stepKeepsInvariant _ _ h hstart
  obtain ⟨k, u, hk, hrun, hframe⟩ := runSteps_to_commit s.plen hinv rfl (Nat.le_add_left _ _)
  exact ⟨k + 1, u.commit, by omega, (runSteps_succ hstart k).trans hrun, rfl, hframe.mode.trans hmode,
    hframe.pending, rfl, congrArg (· + 1) hframe.wp, rfl, rfl, rfl, rfl, hframe.prog, hframe.plen⟩

end Sys2Proof.Proofs

/-! PROOFS. The fixed-point ALU: the bitwise operations, and the kernels of LOG and EXP. The reference
logarithm rests on the exactness of `floorLog2`; the reference exponential on one equivalence, which says
what lies below the value of its bit search. Exact points, monotonicity and the real definitions follow.
An open kernel is read off its two equations, at the exact points and between them. -/

namespace Sys2Proof.Proofs

open Sys2Proof.Machine Sys2Proof.Safety Sys2Proof.Laws

/-! ### The bitwise operations -/

/-- An update of ACC and the step to the next instruction leave all else. -/
theorem onlyAcc_setAcc_advance (s : State) (v : Word) : OnlyAcc s (s.setAcc v).advance :=
  onlyAcc_update s (s.pc + 1) v

/-- Settles O15: the new ACC is the operation of `BitVec`, which acts bit by bit. -/
theorem bitwiseOperationsActOnPattern : Obligations.BitwiseOperationsActOnPattern := by
  intro m s
  refine ⟨⟨(s.setAcc (s.acc &&& m)).advance, rfl, fun i _ => ?_, rfl, onlyAcc_setAcc_advance s _⟩,
    ⟨(s.setAcc (s.acc ||| m)).advance, rfl, fun i _ => ?_, rfl, onlyAcc_setAcc_advance s _⟩,
    ⟨(s.setAcc (s.acc ^^^ m)).advance, rfl, fun i _ => ?_, rfl, onlyAcc_setAcc_advance s _⟩⟩
  · exact BitVec.getLsbD_and
  · exact BitVec.getLsbD_or
  · exact BitVec.getLsbD_xor

/-! ### The reference logarithm (R172) -/

/-- `log2Ref` above 0. -/
theorem log2Ref_of_pos {m : Nat} (hm : 1 ≤ m) :
    log2Ref m = max (-8388608) ((floorLog2 m : Int) - 23 * 524288) :=
  if_neg (by omega)

/-- No value of `log2Ref` is below the most negative word. -/
theorem neg_8388608_le_log2Ref (m : Nat) : -8388608 ≤ log2Ref m := by
  unfold log2Ref
  split
  · exact Int.le_refl _
  · exact le_max_left _ _

/-- Below a power of two `floorLog2` is below the value there. -/
theorem floorLog2_lt {v k : Nat} (hv : 1 ≤ v) (h : v < 2 ^ k) : floorLog2 v < k * 2 ^ 19 := by
  have hpow : v ^ 2 ^ 19 < (2 ^ k) ^ 2 ^ 19 := Nat.pow_lt_pow_left h (by positivity)
  rw [← pow_mul] at hpow
  exact (Nat.pow_lt_pow_iff_right (by omega)).1 ((floorLog2_spec hv).1.trans_lt hpow)

/-- The reference logarithm of a power of two. -/
theorem log2Ref_pow (e : Nat) : log2Ref (2 ^ e) = max (-8388608) (((e : Int) - 23) * 524288) := by
  rw [log2Ref_of_pos (Nat.two_pow_pos e), floorLog2_pow]
  congr 1
  push_cast
  ring

/-- The reference logarithm of a magnitude is negative. -/
theorem log2Ref_neg {m : Nat} (hm : m < 8388608) : log2Ref m ≤ -1 := by
  obtain rfl | hpos := Nat.eq_zero_or_pos m
  · decide
  · have := floorLog2_lt (k := 23) hpos hm
    rw [log2Ref_of_pos hpos]
    omega

/-- The reference logarithm is monotone. -/
theorem log2Ref_mono {m n : Nat} (h : m ≤ n) : log2Ref m ≤ log2Ref n := by
  obtain rfl | hpos := Nat.eq_zero_or_pos m
  · exact neg_8388608_le_log2Ref n
  · have := floorLog2_mono hpos h
    rw [log2Ref_of_pos hpos, log2Ref_of_pos (hpos.trans_le h)]
    omega

/-- `floorLog2` is the floor of the real logarithm at 19 fraction bits. -/
theorem floor_logb_mul {v : Nat} (hv : 1 ≤ v) :
    ⌊Real.logb 2 (v : ℝ) * 2 ^ 19⌋ = (floorLog2 v : Int) := by
  have hpow : Real.logb 2 (v : ℝ) * 2 ^ 19 = Real.logb (2 : Nat) ((v ^ 2 ^ 19 : Nat) : ℝ) := by
    rw [Nat.cast_pow, Real.logb_pow, mul_comm]
    norm_cast
  rw [hpow, Real.floor_logb_natCast (Nat.cast_nonneg _), Int.log_natCast, ← Nat.log2_eq_log_two,
    floorLog2_eq hv]

/-- Settles O32: dividing by 2^23 takes the integer 23 * 2^19 off the scaled logarithm. -/
theorem logReferenceIsFloorOfRealLog : Obligations.LogReferenceIsFloorOfRealLog := by
  intro m hm _
  have hscale : Real.logb 2 ((m : ℝ) / 2 ^ 23) * 2 ^ 19
      = Real.logb 2 (m : ℝ) * 2 ^ 19 - (23 * 524288 : Int) := by
    have hm0 : (m : ℝ) ≠ 0 := by positivity
    rw [Real.logb_div hm0 (by positivity), Real.logb_pow, Real.logb_self_eq_one (by norm_num)]
    push_cast
    ring
  rw [log2Ref_of_pos hm, hscale, Int.floor_sub_intCast, floor_logb_mul hm]

/-! ### The reference exponential (R173) -/

/-- The bit search finds the values of which the 2^19-th power is at most `2^t`. -/
theorem le_searchExp2_iff {t : Nat} (ht : t < 23 * 524288) (n : Nat) :
    n ≤ searchExp2 t 23 0 ↔ n ^ 2 ^ 19 ≤ 2 ^ t := by
  obtain ⟨hle, hlt, _⟩ := searchExp2_exact ht
  constructor
  · exact fun h => (Nat.pow_le_pow_left h _).trans hle
  · exact fun h => Nat.lt_succ_iff.1 (lt_of_pow_lt_pow_left₀ _ (Nat.zero_le _) (h.trans_lt hlt))

/-- The bit search is monotone. -/
theorem searchExp2_mono {t u : Nat} (h : t ≤ u) (hu : u < 23 * 524288) :
    searchExp2 t 23 0 ≤ searchExp2 u 23 0 :=
  (le_searchExp2_iff hu _).2 <|
    ((le_searchExp2_iff (h.trans_lt hu) _).1 (Nat.le_refl _)).trans
      (Nat.pow_le_pow_right (by omega) h)

/-- The bit search is exact at a whole exponent. -/
theorem searchExp2_pow {k : Nat} (hk : k < 23) : searchExp2 (k * 2 ^ 19) 23 0 = 2 ^ k := by
  refine eq_of_forall_le_iff fun n => ?_
  rw [le_searchExp2_iff (by omega), pow_mul, Nat.pow_le_pow_iff_left (by positivity)]

/-- The bit search is the floor of the real power. -/
theorem searchExp2_eq_floor {t : Nat} (ht : t < 23 * 524288) :
    (searchExp2 t 23 0 : Int) = ⌊(2 : ℝ) ^ ((t : ℝ) / 2 ^ 19)⌋ := by
  have hpow : ((2 : ℝ) ^ ((t : ℝ) / 2 ^ 19)) ^ 2 ^ 19 = 2 ^ t := by
    rw [← Real.rpow_natCast, ← Real.rpow_mul (by norm_num), ← Real.rpow_natCast 2 t]
    congr 1
    rw [Nat.cast_pow]
    exact div_mul_cancel₀ _ (by positivity)
  rw [← Int.natCast_floor_eq_floor (by positivity)]
  congr 1
  refine eq_of_forall_le_iff fun n => ?_
  rw [le_searchExp2_iff ht, Nat.le_floor_iff (by positivity),
    ← pow_le_pow_iff_left₀ (n.cast_nonneg (α := ℝ)) (by positivity) (by positivity : 2 ^ 19 ≠ 0),
    hpow]
  exact_mod_cast Iff.rfl

/-- `exp2Ref` from 0 on. -/
theorem exp2Ref_of_nonneg {a : Int} (ha : 0 ≤ a) : exp2Ref a = 8388607 := if_pos ha

/-- `exp2Ref` below 0. -/
theorem exp2Ref_of_neg {a : Int} (ha : a < 0) :
    exp2Ref a = searchExp2 (a + 23 * 524288).toNat 23 0 := if_neg (by omega)

/-- The reference exponential is in the range of the words from 0 on. -/
theorem exp2Ref_bounds (a : Int) : 0 ≤ exp2Ref a ∧ exp2Ref a ≤ 8388607 := by
  obtain ha | ha := Int.lt_or_le a 0
  · obtain ⟨_, _, hle⟩ := searchExp2_exact (t := (a + 23 * 524288).toNat) (by omega)
    rw [exp2Ref_of_neg ha]
    omega
  · rw [exp2Ref_of_nonneg ha]
    decide

/-- The reference exponential is monotone. -/
theorem exp2Ref_mono {a b : Int} (h : a ≤ b) : exp2Ref a ≤ exp2Ref b := by
  obtain hb | hb := Int.lt_or_le b 0
  · rw [exp2Ref_of_neg hb, exp2Ref_of_neg (h.trans_lt hb)]
    exact_mod_cast searchExp2_mono (by omega) (by omega)
  · rw [exp2Ref_of_nonneg hb]
    exact (exp2Ref_bounds a).2

/-- The reference exponential at a whole negative exponent. -/
theorem exp2Ref_neg_whole {e : Nat} (h1 : 1 ≤ e) (h2 : e ≤ 23) :
    exp2Ref (-(e : Int) * 524288) = 2 ^ (23 - e) := by
  have ht : (-(e : Int) * 524288 + 23 * 524288).toNat = (23 - e) * 2 ^ 19 := by omega
  rw [exp2Ref_of_neg (by omega), ht, searchExp2_pow (by omega)]
  norm_cast

/-- Settles O34: the factor 2^23 is 23 added to the exponent. -/
theorem expReferenceIsFloorOfRealPower : Obligations.ExpReferenceIsFloorOfRealPower := by
  intro a hlo hneg
  have ht : ((a + 23 * 524288).toNat : Int) = a + 23 * 524288 := Int.toNat_of_nonneg (by omega)
  have hshift : (a : ℝ) / 2 ^ 19 + (23 : Nat) = ((a + 23 * 524288).toNat : ℝ) / 2 ^ 19 := by
    rw [← Int.cast_natCast (a + 23 * 524288).toNat, ht]
    push_cast
    ring
  rw [exp2Ref_of_neg hneg, searchExp2_eq_floor (by omega), ← hshift,
    Real.rpow_add_natCast (by norm_num)]

/-- Settles O35, from the monotonicity of `floorLog2` and of the bit search. -/
theorem referenceKernelsMonotone : Obligations.ReferenceKernelsMonotone :=
  ⟨fun _ _ h => log2Ref_mono h, fun _ _ _ h => exp2Ref_mono h⟩

/-! ### The open kernels -/

/-- An open logarithm at and below the point where the clamp begins. -/
theorem log2Other_of_le {m : Nat} (hm : m ≤ 128) : log2Other m = -8388608 := if_pos hm

/-- An open logarithm above it: `lo` is the value at the power of two below. -/
theorem log2Other_of_gt {m : Nat} (hm : 128 < m) {lo : Int}
    (hlo : lo = ((Nat.log2 m : Int) - 23) * 524288) :
    log2Other m = if isPow2 m then lo
      else clampInt lo (min (-1) (lo + 524288)) (Config.otherLog2 m) := by
  subst hlo
  exact if_neg (Nat.not_le.2 hm)

/-- An open logarithm of a magnitude is in its range. -/
theorem log2Other_bounds {m : Nat} (hm : m < 8388608) :
    -8388608 ≤ log2Other m ∧ log2Other m ≤ -1 := by
  obtain h128 | h128 := Nat.lt_or_ge 128 m
  · have hlow : 7 ≤ Nat.log2 m := (Nat.le_log2 (by omega)).2 (by omega)
    have hhigh : Nat.log2 m < 23 := (Nat.log2_lt (by omega)).2 hm
    rw [log2Other_of_gt h128 rfl]
    generalize hlo : ((Nat.log2 m : Int) - 23) * 524288 = lo
    split
    · omega
    · have := clampInt_bounds (show lo ≤ min (-1) (lo + 524288) by omega) (Config.otherLog2 m)
      omega
  · rw [log2Other_of_le h128]
    decide

/-- An open logarithm of a power of two. -/
theorem log2Other_pow {e : Nat} (he : 7 ≤ e) : log2Other (2 ^ e) = ((e : Int) - 23) * 524288 := by
  obtain rfl | h7 := Nat.eq_or_lt_of_le he
  · exact log2Other_of_le (by norm_num)
  · have hpow : 2 ^ 7 < 2 ^ e := Nat.pow_lt_pow_right (by omega) h7
    rw [log2Other_of_gt hpow rfl, if_pos ((isPow2_iff _).2 ⟨e, rfl⟩), Nat.log2_two_pow]

/-- Settles O31, for the reference kernel and an open one in turn. -/
theorem logKernelProperties : Obligations.LogKernelProperties := by
  intro k
  cases k with
  | reference =>
    refine ⟨fun m hm => ⟨neg_8388608_le_log2Ref m, log2Ref_neg hm⟩, rfl, fun e he => ?_,
      fun e he _ => ?_⟩
    · exact (log2Ref_pow e).trans (by omega)
    · exact (log2Ref_pow e).trans (by omega)
  | other =>
    refine ⟨fun m hm => log2Other_bounds hm, rfl, fun e he => ?_, fun e he _ => log2Other_pow he⟩
    have hpow : 2 ^ e ≤ 2 ^ 7 := Nat.pow_le_pow_right (by omega) he.le
    exact log2Other_of_le hpow

/-- An open exponential from 0 on. -/
theorem exp2Other_of_nonneg {a : Int} (ha : 0 ≤ a) : exp2Other a = 8388607 := if_pos ha

/-- An open exponential below 0: `lo` is the value at the whole exponent below. -/
theorem exp2Other_of_neg {a : Int} (ha : a < 0) {lo : Int}
    (hlo : lo = 2 ^ ((a + 23 * 524288) / 524288).toNat) :
    exp2Other a = if (a + 23 * 524288) % 524288 = 0 then lo
      else clampInt lo (min 8388607 (2 * lo)) (Config.otherExp2 a) := by
  subst hlo
  exact if_neg (Int.not_le.2 ha)

/-- An open exponential is in the range of the words from 0 on. -/
theorem exp2Other_bounds (a : Int) : 0 ≤ exp2Other a ∧ exp2Other a ≤ 8388607 := by
  obtain ha | ha := Int.lt_or_le a 0
  · have hpos : (1 : Int) ≤ 2 ^ ((a + 23 * 524288) / 524288).toNat := one_le_pow₀ (by norm_num)
    have hle : (2 : Int) ^ ((a + 23 * 524288) / 524288).toNat ≤ 2 ^ 22 :=
      pow_le_pow_right₀ (by norm_num) (by omega)
    rw [exp2Other_of_neg ha rfl]
    generalize (2 : Int) ^ ((a + 23 * 524288) / 524288).toNat = lo at hpos hle ⊢
    split
    · omega
    · have := clampInt_bounds (show lo ≤ min 8388607 (2 * lo) by omega) (Config.otherExp2 a)
      omega
  · rw [exp2Other_of_nonneg ha]
    decide

/-- An open exponential at a whole negative exponent. -/
theorem exp2Other_neg_whole {e : Nat} (h1 : 1 ≤ e) (h2 : e ≤ 23) :
    exp2Other (-(e : Int) * 524288) = 2 ^ (23 - e) := by
  have hquot : ((-(e : Int) * 524288 + 23 * 524288) / 524288).toNat = 23 - e := by omega
  rw [exp2Other_of_neg (by omega) rfl, if_pos (by omega), hquot]

/-- Settles O33, for the reference kernel and an open one in turn. -/
theorem expKernelProperties : Obligations.ExpKernelProperties := by
  intro k
  cases k with
  | reference =>
    exact ⟨fun a _ _ => exp2Ref_bounds a, fun a ha => exp2Ref_of_nonneg ha,
      fun e h1 h2 => exp2Ref_neg_whole h1 (by omega)⟩
  | other =>
    exact ⟨fun a _ _ => exp2Other_bounds a, fun a ha => exp2Other_of_nonneg ha,
      fun e h1 h2 => exp2Other_neg_whole h1 (by omega)⟩

end Sys2Proof.Proofs

/-! PROOFS. The accumulator instructions: SOF, LOG and EXP are one shape, the scale with an offset, and
differ in the integer they scale; LDAX and ABSA are the filter and the maximum at coefficient 0, where the
product vanishes. -/

namespace Sys2Proof.Proofs

open Sys2Proof.Machine Sys2Proof.Safety Sys2Proof.Laws

/-! ### Scale and offset -/

/-- The offset of SOF, LOG and EXP stands 13 bits up (R103). -/
theorem offset11_eq (d : BitVec 11) : offset11 d = d.toInt * 8192 := by
  norm_num [offset11]

/-- SOF, LOG and EXP complete alike, whatever integer `x` they scale (R166). -/
theorem scaleOffset_completes (s : State) (x : Int) (c : BitVec 16) (d : BitVec 11) :
    ∃ t, (.next (s.scaleOffset x (coefS1_14 c) 14 (offset11 d)).advance
        : Host.Outcome State Fault Refusal) = .next t
      ∧ t.acc.toInt = clamp (product s.cfg.rnd x c.toInt 14 + d.toInt * 8192)
      ∧ t.pc = s.pc + 1 ∧ OnlyAcc s t := by
  obtain ⟨hacc, hupd⟩ := scaleOffset_spec s x (coefS1_14 c) 14 (offset11 d)
  refine ⟨_, rfl, ?_, rfl, ?_⟩
  · rw [advance_acc, hacc, offset11_eq, coefS1_14]
  · rw [hupd]
    exact onlyAcc_setAcc_advance s _

/-- A saturated magnitude as the natural number the logarithm takes (R163, R184). -/
theorem abs24_toNat_eq (x : Int) : (abs24 x).toNat = (clamp |x|).toNat := by
  rw [← abs24_toNat, Int.toNat_natCast]

/-- Settles O12: the integer scaled is ACC. -/
theorem sofScalesAndOffsets : Obligations.SofScalesAndOffsets := fun c d s =>
  scaleOffset_completes s s.acc.toInt c d

/-- Settles O13: the integer scaled is the kernel's value at the saturated magnitude of ACC. -/
theorem logScalesLogOfMagnitude : Obligations.LogScalesLogOfMagnitude := by
  intro c d s
  rw [← abs24_toNat_eq]
  exact scaleOffset_completes s (log2fn s.cfg.logExp (abs24 s.acc.toInt).toNat) c d

/-- Settles O14: the integer scaled is the kernel's value at ACC. -/
theorem expScalesPowerOfTwo : Obligations.ExpScalesPowerOfTwo := fun c d s =>
  scaleOffset_completes s (exp2fn s.cfg.logExp s.acc.toInt) c d

/-! ### The spellings of the accumulator forms -/

/-- A product with coefficient 0 is 0 in both modes: half an LSB alone rounds down (R164, R165). -/
theorem product_coef_zero (mode : Rounding) (a : Int) : product mode a (coefS1_14 0) 14 = 0 := by
  rw [product, show coefS1_14 0 = 0 from rfl, mul_zero]
  cases mode <;> rfl

/-- The filter at coefficient 0 leaves the register's word (R203). -/
theorem filterStep_zero (s : State) (x : Word) : s.filterStep x (coefS1_14 0) = s.setAcc x := by
  obtain ⟨hacc, hupd⟩ := filterStep_spec s x (coefS1_14 0)
  have hx : (s.filterStep x (coefS1_14 0)).acc = x := by
    apply BitVec.eq_of_toInt_eq
    rw [hacc, product_coef_zero, zero_add, clamp_word]
  rw [hupd, hx]

/-- The maximum at coefficient 0 leaves the saturated magnitude of ACC (R209). -/
theorem maxMagnitude_zero (s : State) (x : Word) :
    s.maxMagnitude x (coefS1_14 0) = s.setAcc (abs24 s.acc.toInt) := by
  obtain ⟨hacc, hupd⟩ := maxMagnitude_spec s x (coefS1_14 0)
  have hnonneg : 0 ≤ clamp |s.acc.toInt| := by
    rw [← abs24_toNat]
    exact Int.natCast_nonneg _
  have hx : (s.maxMagnitude x (coefS1_14 0)).acc = abs24 s.acc.toInt := by
    apply BitVec.eq_of_toInt_eq
    rw [hacc, product_coef_zero, abs24_toInt]
    exact max_eq_right hnonneg
  rw [hupd, hx]

/-- The one's complement of a word, as a signed integer (R187). -/
theorem not_toInt (v : Word) : (~~~v).toInt = -v.toInt - 1 := by
  have := v.isLt
  rw [BitVec.toInt_not, BitVec.toInt_eq_toNat_bmod, Int.bmod_def, Int.bmod_def]
  omega

/-- A field placed whole, as a number (R91). -/
theorem place_toNat {n lo : Nat} (x : BitVec n) (h : lo + n ≤ 32) :
    (place lo x).toNat = x.toNat * 2 ^ lo := by
  have hlt : x.toNat * 2 ^ lo < 2 ^ 32 := calc
    x.toNat * 2 ^ lo < 2 ^ n * 2 ^ lo := Nat.mul_lt_mul_of_pos_right x.isLt (by positivity)
    _ = 2 ^ (lo + n) := by rw [pow_add, mul_comm]
    _ ≤ 2 ^ 32 := Nat.pow_le_pow_right (by omega) h
  unfold place
  rw [BitVec.toNat_shiftLeft, BitVec.toNat_setWidth_of_le (by omega), Nat.shiftLeft_eq,
    Nat.mod_eq_of_lt hlt]

/-- A field above the opcode, as a number (R91). -/
theorem place_or_opcode_toNat {n lo : Nat} (x : BitVec n) (op : BitVec 5) (h5 : 5 ≤ lo)
    (h : lo + n ≤ 32) : (place lo x ||| place 0 op).toNat = x.toNat * 2 ^ lo + op.toNat := by
  have hop : op.toNat < 2 ^ lo := op.isLt.trans_le (Nat.pow_le_pow_right (by omega) h5)
  rw [BitVec.toNat_or, place_toNat x h, place_toNat op (by omega), pow_zero, mul_one, mul_comm,
    Nat.two_pow_add_eq_or_of_lt hop]

/-- Settles O17: each spelling is an update of ACC alone, and its word is laid out by R91. -/
theorem spellingsOfAccumulatorForms : Obligations.SpellingsOfAccumulatorForms := by
  intro r s
  refine ⟨⟨(s.setAcc (s.acc &&& 0)).advance, rfl, ?clr, rfl, onlyAcc_setAcc_advance s _⟩,
    ⟨(s.setAcc (s.acc ^^^ BitVec.allOnes 24)).advance, rfl, ?not, rfl, onlyAcc_setAcc_advance s _⟩,
    ⟨(s.setAcc (s.readReg r)).advance, ?ldaxRuns, rfl, rfl, onlyAcc_setAcc_advance s _⟩,
    ⟨(s.setAcc (abs24 s.acc.toInt)).advance, ?absaRuns, ?absa, rfl, onlyAcc_setAcc_advance s _⟩,
    rfl, rfl, rfl, ?ldaxWord⟩
  case clr => exact BitVec.and_zero
  case not => rw [advance_acc, setAcc_acc, BitVec.xor_allOnes, not_toInt]
  case ldaxRuns => rw [← filterStep_zero]; rfl
  case absaRuns => rw [← maxMagnitude_zero s (s.readReg .sin0Rate)]; rfl
  case absa => exact abs24_toInt _
  case ldaxWord => exact place_or_opcode_toNat r.addr 0x05#5 le_rfl (by decide)

end Sys2Proof.Proofs

/-! PROOFS. The register instructions. RDAX, RDFX, MAXX and MULX write ACC alone; WRAX, WRHX and WRLX store
the old ACC first. Each of the two shapes completes in one way, and what is left of an instruction is the
integer its new ACC stands for. -/

namespace Sys2Proof.Proofs

open Sys2Proof.Machine Sys2Proof.Safety Sys2Proof.Laws

/-! ### The two shapes -/

section Shapes

variable {i : Instr} {s u : State} {r : Reg} {n : Int}

/-- An instruction whose update `u` writes ACC alone completes (R143). -/
theorem completes_of_accUpdate (hexec : exec i s = .next u.advance) (hupd : u = s.setAcc u.acc)
    (hacc : u.acc.toInt = n) :
    ∃ t, exec i s = .next t ∧ t.acc.toInt = n ∧ t.pc = s.pc + 1 ∧ OnlyAcc s t := by
  have hpc : u.advance.pc = s.pc + 1 := by rw [hupd]; rfl
  have hframe : OnlyAcc s u.advance := by
    rw [hupd]
    exact onlyAcc_setAcc_advance s u.acc
  exact ⟨u.advance, hexec, hacc, hpc, hframe⟩

/-- A store of ACC to `r`, then a write of ACC, has the frame of a register store. -/
theorem onlyAccReg_setAcc_writeReg_advance (s : State) (r : Reg) (v : Word) :
    OnlyAccReg r s ((s.setAcc v).writeReg r s.acc).advance :=
  onlyAccReg_update s r (s.pc + 1) v s.acc

/-- A store to a register that is none of the inputs completes, where the update `u` after it writes ACC
alone (R38). -/
theorem completes_of_storeThen (hexec : exec i s = storeThen s r u) (hr : r ∉ inputRegs)
    (hupd : u = s.setAcc u.acc) (hacc : u.acc.toInt = n) :
    ∃ t, exec i s = .next t ∧ t.readReg r = s.acc ∧ t.acc.toInt = n ∧ t.pc = s.pc + 1
      ∧ OnlyAccReg r s t := by
  have hnext : exec i s = .next (u.writeReg r s.acc).advance :=
    hexec.trans (storeThen_writable ((writable_iff r).2 hr))
  have hread : (u.writeReg r s.acc).advance.readReg r = s.acc := by simp
  have hpc : (u.writeReg r s.acc).advance.pc = s.pc + 1 := by rw [hupd]; rfl
  have hframe : OnlyAccReg r s (u.writeReg r s.acc).advance := by
    rw [hupd]
    exact onlyAccReg_setAcc_writeReg_advance s r u.acc
  exact ⟨_, hnext, hread, hacc, hpc, hframe⟩

end Shapes

/-! ### Instructions that write ACC alone -/

/-- Settles O5: the product saturates first, then the sum (R201). -/
theorem rdaxAccumulatesProduct : Obligations.RdaxAccumulatesProduct := by
  intro r c s
  refine completes_of_accUpdate rfl rfl ?_
  rw [setAcc_acc, satadd_toInt, mul_toInt, coefS1_14]

/-- Settles O6: RDFX is the filter shape at the register's word (R202). -/
theorem rdfxFiltersTowardAcc : Obligations.RdfxFiltersTowardAcc := by
  intro r c s
  obtain ⟨hacc, hupd⟩ := filterStep_spec s (s.readReg r) (coefS1_14 c)
  exact completes_of_accUpdate rfl hupd hacc

/-- Settles O7: MAXX is the maximum shape at the register's word (R208). -/
theorem maxxTakesLargerMagnitude : Obligations.MaxxTakesLargerMagnitude := by
  intro r c s
  obtain ⟨hacc, hupd⟩ := maxMagnitude_spec s (s.readReg r) (coefS1_14 c)
  exact completes_of_accUpdate rfl hupd hacc

/-- Settles O8: the register's word is the multiplier, with 23 fraction bits (R210). -/
theorem mulxMultipliesByRegister : Obligations.MulxMultipliesByRegister := fun r s =>
  completes_of_accUpdate rfl rfl (mul_toInt s.cfg.rnd s.acc.toInt (s.readReg r).toInt 23)

/-! ### Instructions that store ACC first -/

/-- Settles O9: the old ACC is scaled by the coefficient (R205). -/
theorem wraxStoresThenScales : Obligations.WraxStoresThenScales := fun _ c s hr =>
  completes_of_storeThen rfl hr rfl (mul_toInt s.cfg.rnd s.acc.toInt (coefS1_14 c) 14)

/-- Settles O10: the old ACC is scaled, and PACC is the offset (R206). -/
theorem wrhxStoresThenAddsPacc : Obligations.WrhxStoresThenAddsPacc := by
  intro r c s hr
  obtain ⟨hacc, hupd⟩ := scaleOffset_spec s s.acc.toInt (coefS1_14 c) 14 s.pacc.toInt
  exact completes_of_storeThen rfl hr hupd hacc

/-- Settles O11: the saturated difference of PACC and the old ACC is scaled, and PACC is the offset
(R207). -/
theorem wrlxStoresThenFiltersPacc : Obligations.WrlxStoresThenFiltersPacc := by
  intro r c s hr
  obtain ⟨hacc, hupd⟩ :=
    scaleOffset_spec s (satsub s.pacc.toInt s.acc.toInt).toInt (coefS1_14 c) 14 s.pacc.toInt
  rw [← satsub_toInt]
  exact completes_of_storeThen rfl hr hupd hacc

end Sys2Proof.Proofs

/-! PROOFS. The delay-memory instructions. RDA and RMPA are one shape, a read that accumulates, and differ
in where the address comes from; WRA and WRAP are the other, a scheduled write of the old ACC, and differ
in the integer the new ACC stands for. -/

namespace Sys2Proof.Proofs

open Sys2Proof.Machine Sys2Proof.Safety Sys2Proof.Laws

/-! ### The delay shapes -/

section DelayShapes

variable {i : Instr} {s : State}

/-- A latch of `v`, then a write of ACC, has the frame of a delay-memory read. -/
theorem onlyAccLr_setLr_setAcc_advance (s : State) (v w : Word) :
    OnlyAccLr s ((s.setLr v).setAcc w).advance :=
  onlyAccLr_update s (s.pc + 1) w v

/-- A scheduled write, then a write of ACC, has the frame of a delay-memory write. -/
theorem onlyAccWq_memWrite_setAcc_advance (s : State) (a : BitVec 15) (v w : Word) :
    OnlyAccWq s ((s.memWrite a v).setAcc w).advance :=
  onlyAccWq_update s (s.pc + 1) w (s.wq ++ [(a, v)])

/-- An instruction of the read shape completes, and reads the slot of the number `n` its logical address
stands for (R65, R66, R221). -/
theorem completes_of_readAccumulate {a : BitVec 15} {c : Int} {f n : Nat}
    (hexec : exec i s = .next (s.readAccumulate a c f).advance) (ha : a.toNat = n % 32768) :
    ∃ t, exec i s = .next t ∧ t.lr = s.dramSlot (slotOf s.wp.toNat n)
      ∧ t.acc.toInt = clamp (s.acc.toInt + product s.cfg.rnd t.lr.toInt c f)
      ∧ t.pc = s.pc + 1 ∧ OnlyAccLr s t := by
  obtain ⟨hlr, hacc, hupd⟩ := readAccumulate_spec s a c f
  have hslot : s.memRead a = s.dramSlot (slotOf s.wp.toNat n) := by
    rw [State.memRead, physSlot_eq_slotOf ha]
  have hframe : OnlyAccLr s (s.readAccumulate a c f).advance := by
    rw [hupd]
    exact onlyAccLr_setLr_setAcc_advance s _ _
  refine ⟨_, hexec, hlr.trans hslot, ?_, rfl, hframe⟩
  rw [advance_acc, advance_lr, hacc, hlr]

/-- An instruction that schedules the old ACC at its address field completes, where its update `u` writes
ACC alone besides (R63, R67). -/
theorem completes_of_memWrite {u : State} {a : BitVec 16} {n : Int}
    (hexec : exec i s = .next u.advance)
    (hupd : u = (s.memWrite (delayAddr a) s.acc).setAcc u.acc) (hacc : u.acc.toInt = n) :
    ∃ t, exec i s = .next t ∧ t.wq = s.wq ++ [(delayAddr a, s.acc)]
      ∧ (delayAddr a).toNat = a.toNat % 32768 ∧ t.acc.toInt = n
      ∧ t.pc = s.pc + 1 ∧ OnlyAccWq s t := by
  have hwq : u.advance.wq = s.wq ++ [(delayAddr a, s.acc)] := by rw [hupd]; rfl
  have hpc : u.advance.pc = s.pc + 1 := by rw [hupd]; rfl
  have hframe : OnlyAccWq s u.advance := by
    rw [hupd]
    exact onlyAccWq_memWrite_setAcc_advance s (delayAddr a) s.acc u.acc
  exact ⟨u.advance, hexec, hwq, delayAddr_toNat a, hacc, hpc, hframe⟩

end DelayShapes

/-! ### Delay-memory reads -/

/-- Settles O1: the address is the field with its top bit dropped (R221). -/
theorem rdaReadsAndAccumulates : Obligations.RdaReadsAndAccumulates := fun _ a _ =>
  completes_of_readAccumulate rfl (delayAddr_toNat a)

/-- Settles O2: the address is the field of ADDR_PTR, which is below 32768 already (R222). -/
theorem rmpaReadsThroughAddrPtr : Obligations.RmpaReadsThroughAddrPtr := by
  intro c s
  have haddr : (pointerAddr (s.readReg .addrPtr)).toNat
      = (s.readReg .addrPtr).toNat / 256 % 32768 % 32768 := by
    rw [pointerAddr_toNat, Nat.mod_mod]
  exact completes_of_readAccumulate rfl haddr

/-! ### Delay-memory writes -/

/-- Settles O3: ACC is scaled after it was scheduled (R223). -/
theorem wraSchedulesThenScales : Obligations.WraSchedulesThenScales := fun c _ s =>
  completes_of_memWrite rfl rfl (mul_toInt s.cfg.rnd s.acc.toInt (coefS1_9 c) 9)

/-- Settles O4: ACC is scaled after it was scheduled, and LR is the offset (R224). -/
theorem wrapSchedulesThenAddsLatch : Obligations.WrapSchedulesThenAddsLatch := by
  intro c a s
  obtain ⟨hacc, hupd⟩ :=
    scaleOffset_spec (s.memWrite (delayAddr a) s.acc) s.acc.toInt (coefS1_9 c) 9 s.lr.toInt
  rw [memWrite_cfg] at hacc
  exact completes_of_memWrite rfl hupd hacc

end Sys2Proof.Proofs

/-! PROOFS. The skip and its spellings. SKP is one shape, a move of the program counter whose length is N or
0 as the mask says; NOP and JMP are the same move under the empty mask, which is always taken. -/

namespace Sys2Proof.Proofs

open Sys2Proof.Machine Sys2Proof.Safety Sys2Proof.Laws

/-! ### The skip shape -/

/-- A skip not taken has length 0 (R236). -/
theorem exec_skp (c : SkpCond) (n : BitVec 6) (s : State) :
    exec (.skp c n) s = .next (s.skip (if skipTaken c s then n else 0)) :=
  congrArg Host.Outcome.next (skipIf_eq_skip s (skipTaken c s) n)

/-- A skip moves the program counter alone, ACC included in what stays (R236). -/
theorem onlyAcc_skip (s : State) (n : BitVec 6) : OnlyAcc s (s.skip n) :=
  onlyAcc_update s (s.pc + 1 + n.setWidth 8) s.acc

/-- The state after a skip, with the length as the rules write it (R236). -/
theorem skip_eq_update (s : State) (n : BitVec 6) :
    s.skip n = { s with pc := s.pc + 1 + BitVec.ofNat 8 n.toNat } := by
  rw [BitVec.ofNat_toNat]
  rfl

/-- A skip of length 0 leads to the next instruction (R239). -/
theorem skip_zero (s : State) : s.skip 0 = s.advance := by simp [State.skip, State.advance]

/-- Settles O16: the mask decides between the lengths N and 0, and the rest holds of a skip of any
length. -/
theorem skpMovesOnlyThePc : Obligations.SkpMovesOnlyThePc := by
  intro c n s
  refine ⟨_, exec_skp c n s, ?taken, ?notTaken, ?range, rfl, onlyAcc_skip s _⟩
  case taken =>
    intro hholds
    rw [if_pos ((skipTaken_iff c s).2 hholds), skip_eq_update]
  case notTaken =>
    intro hfails
    rw [if_neg (mt (skipTaken_iff c s).1 hfails), skip_zero, advance_pc]
  case range => exact effect_pc_bounds (exec_effect (exec_skp c n s))

/-! ### The spellings -/

/-- The empty mask selects no condition, so its skip is taken in every state (R236, R240). -/
theorem skipTaken_empty (s : State) : skipTaken .empty s = true := rfl

/-- JMP is the skip under the empty mask (R240). -/
theorem exec_jmp (n : BitVec 6) (s : State) : exec (.jmp n) s = .next (s.skip n) := by
  have hspelling : exec (.jmp n) s = exec (.skp .empty n) s := rfl
  rw [hspelling, exec_skp, if_pos (skipTaken_empty s)]

/-- NOP is the skip of length 0 under the empty mask (R239). -/
theorem exec_nop (s : State) : exec .nop s = .next s.advance := by
  have hspelling : exec .nop s = exec (.skp .empty 0) s := rfl
  rw [hspelling, exec_skp, ite_self, skip_zero]

/-- Settles O18: NOP and JMP are skips of length 0 and N, and their words are laid out by R91. -/
theorem spellingsOfSkip : Obligations.SpellingsOfSkip := by
  intro n s
  refine ⟨exec_nop s, ?jmpRuns, rfl, ?jmpWord⟩
  case jmpRuns => rw [exec_jmp, skip_eq_update]
  case jmpWord => exact place_or_opcode_toNat n 0x11#5 (by decide) (by decide)

end Sys2Proof.Proofs

/-! PROOFS. The selector of CHO. On either kind of oscillator the value is in range, its quotient by a power
of two is the offset and its remainder the coefficient; under NA the coefficient of a ramp is the triangle
of its pointer. In every case the coefficient is a non-negative word, so that no product saturates. -/

namespace Sys2Proof.Proofs

open Sys2Proof.Machine Sys2Proof.Safety Sys2Proof.Laws

/-! ### What the selector reads -/

section Latch

variable {s : State}

/-- Each sine latch of a bounded latch is bounded (R252). -/
theorem sineLatch_bounded (h : LatchBounded s) (n : Osc) (cos : Bool) :
    SineBounded (s.sineLatch n cos) := by
  obtain ⟨hsin0, hsin1, hcos0, hcos1, _, _⟩ := h
  cases n <;> cases cos <;> assumption

/-- Each ramp latch of a bounded latch lies below the range of its code (R257). -/
theorem rampLatch_bounded (h : LatchBounded s) (n : Osc) :
    RampBounded (s.rampLatch n) (s.rampCode n) := by
  obtain ⟨_, _, _, _, hrmp0, hrmp1⟩ := h
  cases n <;> assumption

end Latch

/-- The flag REG has no part in the selection (R265). -/
theorem lfoSelect_reg (s : State) (c : ChoFlags) (b : Bool) (o : Lfo) :
    lfoSelect s { c with reg := b } o = lfoSelect s c o := by cases o <;> rfl

/-- The complement of a coefficient is one again (R264). -/
theorem compcCoef_bounds (c : ChoFlags) {x : Int} (h0 : 0 ≤ x) (h1 : x ≤ 8388607) :
    0 ≤ compcCoef c x ∧ compcCoef c x ≤ 8388607 := by
  unfold compcCoef
  split <;> omega

/-! ### Sine oscillators -/

/-- The value of a sine oscillator: negating it never leaves the range (R252, R264). -/
theorem selectSine_p_bounds (c : ChoFlags) {v : Word} (h : SineBounded v) :
    -8388352 ≤ (selectSine c v).p ∧ (selectSine c v).p ≤ 8388352 := by
  obtain ⟨hlow, hhigh⟩ := h
  simp only [selectSine]
  split <;> omega

/-- The offset of a sine oscillator (R264). -/
theorem selectSine_off (c : ChoFlags) (v : Word) :
    (selectSine c v).off = (selectSine c v).p / 512 := rfl

/-- The coefficient of a sine oscillator (R264). -/
theorem selectSine_coef (c : ChoFlags) (v : Word) :
    (selectSine c v).coef = compcCoef c ((selectSine c v).p % 512 * 16384) := rfl

/-- The coefficient of a sine oscillator is a non-negative word (R264). -/
theorem selectSine_coef_bounds (c : ChoFlags) (v : Word) :
    0 ≤ (selectSine c v).coef ∧ (selectSine c v).coef ≤ 8388607 :=
  compcCoef_bounds c (by omega) (by omega)

/-- Settles O25: offset and remainder are the quotient and the remainder of the value by 512. -/
theorem selectorSplitsSineValue : Obligations.SelectorSplitsSineValue := by
  intro c n s h
  have hsel : lfoSelect s c (.sine n) = selectSine c (s.sineLatch n c.cos) := rfl
  obtain ⟨hlow, hhigh⟩ := selectSine_p_bounds c (sineLatch_bounded h n c.cos)
  obtain ⟨hcoef0, hcoef1⟩ := selectSine_coef_bounds c (s.sineLatch n c.cos)
  have hoff := selectSine_off c (s.sineLatch n c.cos)
  rw [lfoSelect_reg, hsel]
  refine ⟨?value, ⟨_, Int.emod_nonneg _ (by decide), Int.emod_lt_of_pos _ (by decide),
    (Int.ediv_mul_add_emod _ 512).symm, selectSine_coef c _⟩, by omega, by omega, hcoef0, hcoef1, rfl⟩
  case value => cases n <;> cases c.cos <;> rfl

/-! ### Ramp oscillators -/

/-- The number of values of a ramp of range code `code` (R257). -/
def rampSize (code : BitVec 2) : Int := 2 ^ (22 - code.toNat)

/-- The four ranges, each with the scale that brings half of it to 2^23 (R264). -/
theorem rampSize_cases (code : BitVec 2) :
    code.toNat = 0 ∧ rampSize code = 4194304 ∨ code.toNat = 1 ∧ rampSize code = 2097152
      ∨ code.toNat = 2 ∧ rampSize code = 1048576 ∨ code.toNat = 3 ∧ rampSize code = 524288 := by
  revert code; decide

/-- Half a range is a whole number. -/
theorem rampSize_even (code : BitVec 2) : rampSize code % 2 = 0 := by
  revert code; decide

/-- The pointer of a ramp of value `v`: under RPTR2 half a range further, around its end (R264). -/
def rampPointer (c : ChoFlags) (v : BitVec 22) (code : BitVec 2) : Int :=
  if c.rptr2 then (v.toNat + rampSize code / 2) % rampSize code else v.toNat

section Ramp

variable (c : ChoFlags) {v : BitVec 22} {code : BitVec 2}

/-- The value of a ramp oscillator: the pointer, or its mirror image under COMPA (R264). -/
theorem selectRamp_p (v : BitVec 22) (code : BitVec 2) : (selectRamp c v code).p
    = if c.compa then rampSize code - 1 - rampPointer c v code else rampPointer c v code := by
  unfold selectRamp
  cases c.na <;> rfl

/-- Without NA the value is split in an offset and a coefficient (R264). -/
theorem selectRamp_of_not_na (hna : c.na = false) (v : BitVec 22) (code : BitVec 2) :
    (selectRamp c v code).off = (selectRamp c v code).p / 1024
      ∧ (selectRamp c v code).coef = compcCoef c ((selectRamp c v code).p % 1024 * 8192) := by
  simp only [selectRamp, hna]
  exact ⟨rfl, rfl⟩

/-- Under NA the coefficient is the rising, then falling, pointer at full scale (R264). -/
theorem selectRamp_of_na (hna : c.na = true) (v : BitVec 22) (code : BitVec 2) :
    (selectRamp c v code).off = 0
      ∧ (selectRamp c v code).coef = compcCoef c
        ((if rampPointer c v code < rampSize code / 2 then rampPointer c v code
          else rampSize code - 1 - rampPointer c v code) * 2 ^ (2 + code.toNat)) := by
  simp only [selectRamp, hna]
  exact ⟨rfl, rfl⟩

/-- A ramp output below the size of its range, on integers (R257). -/
theorem lt_rampSize (h : RampBounded v code) : (v.toNat : Int) < rampSize code := by
  unfold rampSize
  exact_mod_cast h

/-- Half a range further, around the end, is half a range up from the lower half and down from the
upper. -/
theorem rampPointer_eq (h : RampBounded v code) : rampPointer c v code
    = if c.rptr2 then (if (v.toNat : Int) < rampSize code / 2 then v.toNat + rampSize code / 2
        else v.toNat - rampSize code / 2) else v.toNat := by
  have hlt := lt_rampSize h
  have heven := rampSize_even code
  unfold rampPointer
  congr 1
  split
  · exact Int.emod_eq_of_lt (by omega) (by omega)
  · rw [← Int.sub_emod_right, Int.emod_eq_of_lt (by omega) (by omega)]
    omega

/-- The pointer stays in the range of the ramp (R264). -/
theorem rampPointer_bounds (h : RampBounded v code) :
    0 ≤ rampPointer c v code ∧ rampPointer c v code < rampSize code := by
  have hlt := lt_rampSize h
  rw [rampPointer_eq c h]
  split
  · split <;> omega
  · omega

/-- So does the value (R264). -/
theorem selectRamp_p_bounds (h : RampBounded v code) :
    0 ≤ (selectRamp c v code).p ∧ (selectRamp c v code).p < rampSize code := by
  obtain ⟨h0, hlt⟩ := rampPointer_bounds c h
  rw [selectRamp_p]
  split <;> omega

/-- The triangle of the pointer is the smaller of its distances from the two ends (R264). -/
theorem selectRamp_coef_of_na (hna : c.na = true) (v : BitVec 22) (code : BitVec 2) :
    (selectRamp c v code).coef = compcCoef c
      (min (rampPointer c v code) (rampSize code - 1 - rampPointer c v code)
        * 2 ^ (2 + code.toNat)) := by
  have heven := rampSize_even code
  rw [(selectRamp_of_na c hna v code).2]
  congr 2
  split <;> omega

/-- The coefficient of a ramp oscillator is a non-negative word (R264). -/
theorem selectRamp_coef_bounds (h : RampBounded v code) :
    0 ≤ (selectRamp c v code).coef ∧ (selectRamp c v code).coef ≤ 8388607 := by
  cases hna : c.na with
  | false =>
    rw [(selectRamp_of_not_na c hna v code).2]
    exact compcCoef_bounds c (by omega) (by omega)
  | true =>
    obtain ⟨h0, hlt⟩ := rampPointer_bounds c h
    rw [selectRamp_coef_of_na c hna]
    obtain ⟨hc, hm⟩ | ⟨hc, hm⟩ | ⟨hc, hm⟩ | ⟨hc, hm⟩ := rampSize_cases code <;>
      rw [hc, hm] <;> rw [hm] at hlt <;> exact compcCoef_bounds c (by omega) (by omega)

/-- The offset of a ramp oscillator without NA (R264). -/
theorem selectRamp_off_bounds (hna : c.na = false) (h : RampBounded v code) :
    0 ≤ (selectRamp c v code).off ∧ (selectRamp c v code).off < 4096 / 2 ^ code.toNat := by
  obtain ⟨h0, hlt⟩ := selectRamp_p_bounds c h
  rw [(selectRamp_of_not_na c hna v code).1]
  obtain ⟨hc, hm⟩ | ⟨hc, hm⟩ | ⟨hc, hm⟩ | ⟨hc, hm⟩ := rampSize_cases code <;>
    rw [hc] <;> rw [hm] at hlt <;> omega

/-- Without NA the value is split in an offset in range and the remainder that makes the coefficient
(R264). -/
theorem selectRamp_splits (hna : c.na = false) (h : RampBounded v code) :
    ∃ frac : Int, 0 ≤ frac ∧ frac < 1024
      ∧ (selectRamp c v code).p = (selectRamp c v code).off * 1024 + frac
      ∧ 0 ≤ (selectRamp c v code).off ∧ (selectRamp c v code).off < 4096 / 2 ^ code.toNat
      ∧ (selectRamp c v code).coef = compcCoef c (frac * 8192) := by
  obtain ⟨hoff0, hoff1⟩ := selectRamp_off_bounds c hna h
  obtain ⟨hoff, hcoef⟩ := selectRamp_of_not_na c hna v code
  exact ⟨_, Int.emod_nonneg _ (by decide), Int.emod_lt_of_pos _ (by decide),
    by rw [hoff, Int.ediv_mul_add_emod], hoff0, hoff1, hcoef⟩

end Ramp

/-- Settles O26: offset and remainder are the quotient and the remainder of the value by 1024, and under NA
the coefficient is the triangle. -/
theorem selectorSplitsRampValue : Obligations.SelectorSplitsRampValue := by
  intro c n s h
  have hb := rampLatch_bounded h n
  have hvalue := selectRamp_p c (s.rampLatch n) (s.rampCode n)
  have htriangle (hna : c.na = true) := selectRamp_coef_of_na c hna (s.rampLatch n) (s.rampCode n)
  rw [rampPointer_eq c hb] at hvalue htriangle
  obtain ⟨hp0, hp1⟩ := selectRamp_p_bounds c hb
  obtain ⟨hcoef0, hcoef1⟩ := selectRamp_coef_bounds c hb
  cases n <;>
    exact ⟨hvalue, hp0, hp1,
      fun hna => selectRamp_splits c hna hb,
      fun hna => ⟨(selectRamp_of_na c hna _ _).1, htriangle hna⟩,
      hcoef0, hcoef1, lfoSelect_reg s c _ _⟩

/-! ### Either kind -/

section Select

variable {s : State}

/-- The coefficient the selector answers is a non-negative word (R264). -/
theorem lfoSelect_coef_bounds (h : LatchBounded s) (c : ChoFlags) (o : Lfo) :
    0 ≤ (lfoSelect s c o).coef ∧ (lfoSelect s c o).coef ≤ 8388607 := by
  cases o with
  | sine n => exact selectSine_coef_bounds c _
  | ramp n => exact selectRamp_coef_bounds c (rampLatch_bounded h n)

/-- The value the selector answers is in the range of a word (R264, R268). -/
theorem lfoSelect_p_bounds (h : LatchBounded s) (c : ChoFlags) (o : Lfo) :
    -8388608 ≤ (lfoSelect s c o).p ∧ (lfoSelect s c o).p ≤ 8388607 := by
  cases o with
  | sine n =>
    obtain ⟨hlow, hhigh⟩ := selectSine_p_bounds c (sineLatch_bounded h n c.cos)
    rw [lfoSelect]
    omega
  | ramp n =>
    obtain ⟨hlow, hhigh⟩ := selectRamp_p_bounds c (rampLatch_bounded h n)
    rw [lfoSelect]
    obtain ⟨_, hm⟩ | ⟨_, hm⟩ | ⟨_, hm⟩ | ⟨_, hm⟩ := rampSize_cases (s.rampCode n) <;> omega

end Select

/-- A word weighed with a non-negative word of 23 fraction bits is no larger than it was, rounded in either
mode (R165). -/
theorem rounded_weighed_bounds (mode : Rounding) (v : Word) {c : Int} (h0 : 0 ≤ c) (h1 : c ≤ 8388607) :
    -8388608 ≤ rounded mode (v.toInt * c) 23 ∧ rounded mode (v.toInt * c) 23 ≤ 8388607 := by
  obtain ⟨hlow, hhigh⟩ := word_bounds v
  have hlow' : -8388608 * 8388607 ≤ v.toInt * c := by nlinarith
  have hhigh' : v.toInt * c ≤ 8388607 * 8388607 := by nlinarith
  rw [← rnd_eq]
  cases mode <;> simp only [rnd] <;> omega

/-- Settles O27. -/
theorem choProductNeverSaturates : Obligations.ChoProductNeverSaturates := by
  intro c o s v h
  obtain ⟨hcoef0, hcoef1⟩ := lfoSelect_coef_bounds h c o
  obtain ⟨hlow, hhigh⟩ := rounded_weighed_bounds s.cfg.rnd v hcoef0 hcoef1
  unfold product clamp
  omega

end Sys2Proof.Proofs

/-! PROOFS. The oscillators at the start of a tick. Each phase advances by a field of its rate register, and
the latch is read off the advanced phases; each of the two is a fact about one oscillator on numbers. -/

namespace Sys2Proof.Proofs

open Sys2Proof.Machine Sys2Proof.Safety Sys2Proof.Laws

/-! ### The fields of the parameter registers -/

/-- The amplitude of a sine oscillator: bits 22:8 (R31). -/
theorem sineAmpField_toNat (x : Word) : (sineAmpField x).toNat = x.toNat / 256 % 32768 :=
  field_toNat x 8 15

/-- The rate of a sine oscillator: bits 22:14 (R31). -/
theorem sineRateField_toNat (x : Word) : (sineRateField x).toNat = x.toNat / 16384 % 512 :=
  field_toNat x 14 9

/-- The range code of a ramp oscillator: the low two bits (R31). -/
theorem rampCodeField_toNat (x : Word) : (rampCodeField x).toNat = x.toNat % 4 := by
  have hfield : (rampCodeField x).toNat = x.toNat / 1 % 4 := field_toNat x 0 2
  rw [hfield, Nat.div_one]

/-- The rate of a ramp oscillator: bits 23:8, signed (R31). -/
theorem rampRateField_toInt (x : Word) : (rampRateField x).toInt = Int.fdiv x.toInt 256 := by
  have hx := x.isLt
  have hfield : (rampRateField x).toNat = x.toNat / 256 % 65536 := field_toNat x 8 16
  rw [Int.fdiv_eq_ediv_of_nonneg _ (by decide), BitVec.toInt_eq_toNat_cond,
    BitVec.toInt_eq_toNat_cond, hfield]
  split <;> split <;> omega

/-! ### One advance -/

/-- A sine phase after its advance (R251). -/
theorem sineAdvance_toNat (phase : BitVec 20) (rate : Word) :
    (sineAdvance phase rate).toNat = (phase.toNat + rate.toNat / 16384 % 512) % 1048576 := by
  rw [sineAdvance, BitVec.toNat_add, BitVec.toNat_setWidth_of_le (by decide), sineRateField_toNat]

/-- A ramp phase after its advance (R256). -/
theorem rampAdvance_toNat (phase : BitVec 26) (rate range : Word) :
    ((rampAdvance phase rate range).toNat : Int)
      = ((phase.toNat : Int) - Int.fdiv rate.toInt 256) % 2 ^ (26 - range.toNat % 4) := by
  rw [rampAdvance, rampRateField_toInt, rampCodeField_toNat]
  have hpos : (0 : Int) < 2 ^ (26 - range.toNat % 4) := by positivity
  have hfits : (2 : Int) ^ (26 - range.toNat % 4) ≤ 2 ^ 26 :=
    pow_le_pow_right₀ (by norm_num) (Nat.sub_le _ _)
  have h0 := Int.emod_nonneg ((phase.toNat : Int) - Int.fdiv rate.toInt 256) hpos.ne'
  have hlt := Int.emod_lt_of_pos ((phase.toNat : Int) - Int.fdiv rate.toInt 256) hpos
  rw [BitVec.toNat_ofInt, Int.toNat_of_nonneg (Int.emod_nonneg _ (by decide))]
  exact Int.emod_eq_of_lt h0 (hlt.trans_le hfits)

/-- Settles O28: a tick begins with one advance of each phase. -/
theorem oscillatorsAdvanceOncePerTick : Obligations.OscillatorsAdvanceOncePerTick := by
  intro s i rest hphase hmode hpending
  refine ⟨_, step_tick_loaded hphase hmode hpending, ?_⟩
  rw [beginTick_eq]
  exact ⟨sineAdvance_toNat _ _, sineAdvance_toNat _ _, rampAdvance_toNat _ _ _,
    rampAdvance_toNat _ _ _⟩

/-! ### The latch -/

/-- A sine output never leaves the word it is latched in, so it is the floored product (R252). -/
theorem sineValue_toInt {k : Int} (h1 : -8388607 ≤ k) (h2 : k ≤ 8388607) (range : Word) :
    (sineValue k range).toInt = Int.fdiv (k * (range.toNat / 256 % 32768 : Nat)) 32768 := by
  have ha : range.toNat / 256 % 32768 < 32768 := Nat.mod_lt _ (by decide)
  rw [sineValue, sineAmpField_toNat, Int.fdiv_eq_ediv_of_nonneg _ (by decide)]
  generalize range.toNat / 256 % 32768 = a at ha
  have hlow : -8388607 * 32767 ≤ k * a := by nlinarith
  have hhigh : k * a ≤ 8388607 * 32767 := by nlinarith
  exact toInt_ofInt24 (by omega) (by omega)

/-- A sine kernel's value latched (R252, R254). -/
theorem sineValue_sinfn_toInt (k : KernelChoice) (p : Nat) (range : Word) :
    (sineValue (sinfn k p) range).toInt
      = Int.fdiv (sinfn k p * (range.toNat / 256 % 32768 : Nat)) 32768 :=
  have ⟨hlow, hhigh⟩ := sinfn_bounds k p
  sineValue_toInt hlow hhigh range

/-- A ramp output is its phase less four bits (R257). -/
theorem rampValue_toNat (phase : BitVec 26) : (rampValue phase).toNat = phase.toNat / 16 := by
  have hphase := phase.isLt
  rw [rampValue, field_toNat]
  omega

/-- Settles O29: the latch is computed from the phases that the tick leaves. -/
theorem latchFollowsAdvancedPhases : Obligations.LatchFollowsAdvancedPhases := by
  intro s i rest hphase hmode hpending
  refine ⟨_, step_tick_loaded hphase hmode hpending, ?_⟩
  rw [beginTick_eq]
  exact ⟨sineValue_sinfn_toInt _ _ _, sineValue_sinfn_toInt _ _ _, sineValue_sinfn_toInt _ _ _,
    sineValue_sinfn_toInt _ _ _, rampValue_toNat _, rampCodeField_toNat _, rampValue_toNat _,
    rampCodeField_toNat _⟩

end Sys2Proof.Proofs

/-! PROOFS. The oscillator instructions. WLDS and WLDR write the two parameter registers of one oscillator;
the CHO forms are the read and the scale shapes at what the selector answers. -/

namespace Sys2Proof.Proofs

open Sys2Proof.Machine Sys2Proof.Safety Sys2Proof.Laws

/-! ### The words of the parameter registers -/

/-- A rate word of a sine oscillator, as a number (R260). -/
theorem sineRateWord_toNat (f : BitVec 9) : (sineRateWord f).toNat = f.toNat * 16384 := by
  have hf := f.isLt
  rw [sineRateWord, BitVec.toNat_shiftLeft, BitVec.toNat_setWidth_of_le (by decide), Nat.shiftLeft_eq]
  omega

/-- An amplitude word of a sine oscillator, as a number (R260). -/
theorem sineAmpWord_toNat (a : BitVec 15) : (sineAmpWord a).toNat = a.toNat * 256 := by
  have ha := a.isLt
  rw [sineAmpWord, BitVec.toNat_shiftLeft, BitVec.toNat_setWidth_of_le (by decide), Nat.shiftLeft_eq]
  omega

/-- A rate word of a ramp oscillator, as a signed number (R261). -/
theorem rampRateWord_toInt (f : BitVec 16) : (rampRateWord f).toInt = f.toInt * 256 := by
  have hf := f.isLt
  have hword : (rampRateWord f).toNat = f.toNat * 256 := by
    rw [rampRateWord, BitVec.toNat_shiftLeft, BitVec.toNat_setWidth_of_le (by decide), Nat.shiftLeft_eq]
    omega
  rw [BitVec.toInt_eq_toNat_cond, BitVec.toInt_eq_toNat_cond, hword]
  split <;> split <;> omega

/-- A range word of a ramp oscillator, as a number (R261). -/
theorem rampCodeWord_toNat (a : BitVec 2) : (rampCodeWord a).toNat = a.toNat :=
  BitVec.toNat_setWidth_of_le (by decide)

/-! ### Loading the parameter registers -/

/-- The two parameter registers of a pair, read after their write (R30). -/
theorem writePair_readReg_pair (s : State) {r q : Reg} (h : r ≠ q) (v w : Word) :
    (s.writePair r q v w).readReg r = v ∧ (s.writePair r q v w).readReg q = w := by
  simp [h]

/-- WLDS on either sine oscillator: its two registers, and its phase (R260). -/
theorem wlds_completes (n : Osc) (f : BitVec 9) (a : BitVec 15) (s : State) :
    ∃ t, exec (.wlds n f a) s = .next t
      ∧ (t.readReg (sineRateReg n)).toNat = f.toNat * 16384
      ∧ (t.readReg (sineRangeReg n)).toNat = a.toNat * 256
      ∧ SameRegsBut (registersWritten (.wlds n f a)) s t
      ∧ t.sph0 = (if n = .zero then 0 else s.sph0) ∧ t.sph1 = (if n = .one then 0 else s.sph1)
      ∧ t.rph0 = s.rph0 ∧ t.rph1 = s.rph1
      ∧ t.acc = s.acc ∧ t.lr = s.lr ∧ t.wq = s.wq ∧ t.pc = s.pc + 1 ∧ SameOutside s t := by
  have hne : sineRateReg n ≠ sineRangeReg n := by cases n <;> decide
  obtain ⟨hrate, hrange⟩ := writePair_readReg_pair s hne (sineRateWord f) (sineAmpWord a)
  have heffect := exec_effect (i := .wlds n f a) (s := s) rfl
  refine ⟨_, rfl, ?rate, ?range, effect_sameRegsBut heffect, setSph_sph0 _ n 0, setSph_sph1 _ n 0,
    setSph_rph0 _ n 0, setSph_rph1 _ n 0, setSph_acc _ n 0, setSph_lr _ n 0, setSph_wq _ n 0,
    ?counter, effect_sameOutside heffect⟩
  case rate => rw [advance_readReg, setSph_readReg, hrate, sineRateWord_toNat]
  case range => rw [advance_readReg, setSph_readReg, hrange, sineAmpWord_toNat]
  case counter => rw [advance_pc, setSph_pc, writePair_pc]

/-- Settles O19, for the two oscillators in turn. -/
theorem wldsLoadsAndRestarts : Obligations.WldsLoadsAndRestarts := by
  intro f a s
  constructor
  · exact wlds_completes .zero f a s
  · obtain ⟨t, hexec, hrate, hrange, hregs, hsph0, hsph1, hrest⟩ := wlds_completes .one f a s
    exact ⟨t, hexec, hrate, hrange, hregs, hsph1, hsph0, hrest⟩

/-- WLDR on either ramp oscillator: its two registers, and no phase (R261). -/
theorem wldr_completes (n : Osc) (f : BitVec 16) (a : BitVec 2) (s : State) :
    ∃ t, exec (.wldr n f a) s = .next t
      ∧ (t.readReg (rampRateReg n)).toInt = f.toInt * 256
      ∧ (t.readReg (rampRangeReg n)).toNat = a.toNat
      ∧ SameRegsBut (registersWritten (.wldr n f a)) s t ∧ SamePhases s t
      ∧ t.acc = s.acc ∧ t.lr = s.lr ∧ t.wq = s.wq ∧ t.pc = s.pc + 1 ∧ SameOutside s t := by
  have hne : rampRateReg n ≠ rampRangeReg n := by cases n <;> decide
  obtain ⟨hrate, hrange⟩ := writePair_readReg_pair s hne (rampRateWord f) (rampCodeWord a)
  have heffect := exec_effect (i := .wldr n f a) (s := s) rfl
  refine ⟨_, rfl, ?rate, ?range, effect_sameRegsBut heffect, ⟨rfl, rfl, rfl, rfl⟩, rfl, rfl, rfl, rfl,
    effect_sameOutside heffect⟩
  case rate => rw [advance_readReg, hrate, rampRateWord_toInt]
  case range => rw [advance_readReg, hrange, rampCodeWord_toNat]

/-- Settles O20, for the two oscillators in turn. -/
theorem wldrLoadsAndKeepsPhase : Obligations.WldrLoadsAndKeepsPhase := fun f a s =>
  ⟨wldr_completes .zero f a s, wldr_completes .one f a s⟩

/-- Settles O21: either write of JAM is the record of the statement. -/
theorem jamZeroesOneRampPhase : Obligations.JamZeroesOneRampPhase := fun _ => ⟨rfl, rfl⟩

/-! ### CHO -/

/-- The displaced address, as a number (R63, R266). -/
theorem displacedAddr_toNat (a : BitVec 16) (off : Int) :
    (displacedAddr a off).toNat = (((a.toNat : Int) + off) % 32768).toNat % 32768 := by
  rw [displacedAddr, BitVec.toNat_ofInt]
  omega

/-- The offset of CHO SOF stands 8 bits up (R103). -/
theorem offset16_eq (d : BitVec 16) : offset16 d = d.toInt * 256 := rfl

/-- Settles O22: CHO RDA is the read shape at the displaced address, with the selector's coefficient. -/
theorem choRdaReadsDisplaced : Obligations.ChoRdaReadsDisplaced := fun _ _ a _ hallowed =>
  completes_of_readAccumulate (if_pos hallowed) (displacedAddr_toNat a _)

/-- Settles O23: CHO SOF is the scale shape at ACC, with the selector's coefficient. -/
theorem choSofScalesByCoefficient : Obligations.ChoSofScalesByCoefficient := by
  intro c o d s hallowed
  obtain ⟨hacc, hupd⟩ := scaleOffset_spec s s.acc.toInt (lfoSelect s c o).coef 23 (offset16 d)
  rw [offset16_eq] at hacc
  exact completes_of_accUpdate (if_pos hallowed) hupd hacc

/-- Settles O24: the selector's value is in the range of a word, so ACC holds it exactly. -/
theorem choRdalLoadsOscillatorValue : Obligations.ChoRdalLoadsOscillatorValue := by
  intro c o s hallowed hlatch
  obtain ⟨hlow, hhigh⟩ := lfoSelect_p_bounds hlatch c o
  exact completes_of_accUpdate (if_pos hallowed) rfl (toInt_ofInt24 hlow hhigh)

end Sys2Proof.Proofs

/-! PROOFS. The sine kernels. On the first quadrant the reference kernel follows the real sine; the fold of
the other three is that of the real sine about half a turn. -/

namespace Sys2Proof.Proofs

open Sys2Proof.Machine Sys2Proof.Laws

/-- The angle of a 20-bit phase (R254). -/
noncomputable def phaseAngle (p : ℕ) : ℝ := 2 * Real.pi * p / 2 ^ 20

/-- Half a turn further is π more. -/
theorem phaseAngle_half_turn_add (p : ℕ) : phaseAngle (524288 + p) = phaseAngle p + Real.pi := by
  unfold phaseAngle
  push_cast
  ring

/-- Two phases that make up half a turn have supplementary angles. -/
theorem phaseAngle_of_add_eq {p q : ℕ} (h : p + q = 524288) :
    phaseAngle p = Real.pi - phaseAngle q := by
  have hq : (p : ℝ) = 524288 - q := by
    rw [eq_sub_iff_add_eq]
    exact_mod_cast h
  unfold phaseAngle
  rw [hq]
  ring

/-- Half a turn further the real sine changes its sign. -/
theorem sin_phaseAngle_half_turn_add (p : ℕ) :
    Real.sin (phaseAngle (524288 + p)) = -Real.sin (phaseAngle p) := by
  rw [phaseAngle_half_turn_add, Real.sin_add_pi]

/-- The real sine of the second quadrant is that of the first, mirrored. -/
theorem sin_phaseAngle_quarter_turn_add {r : ℕ} (hr : r ≤ 262144) :
    Real.sin (phaseAngle (262144 + r)) = Real.sin (phaseAngle (262144 - r)) := by
  rw [phaseAngle_of_add_eq (show 262144 + r + (262144 - r) = 524288 by omega), Real.sin_pi_sub]

/-- The word `v` follows the real sine at phase `p`: half an LSB, up to 2^-40 (R254). -/
def FollowsSine (v : ℤ) (p : ℕ) : Prop :=
  |(v : ℝ) - Real.sin (phaseAngle p) * 8388607| ≤ 1 / 2 + 1 / 2 ^ 40

/-- A word that follows one real sine follows every equal one. -/
theorem followsSine_of_sin_eq {v : ℤ} {p q : ℕ} (h : FollowsSine v q)
    (hsin : Real.sin (phaseAngle p) = Real.sin (phaseAngle q)) : FollowsSine v p := by
  rw [FollowsSine, hsin]
  exact h

/-- The negative of a word follows the opposite real sine. -/
theorem followsSine_neg {v : ℤ} {p q : ℕ} (h : FollowsSine v q)
    (hsin : Real.sin (phaseAngle p) = -Real.sin (phaseAngle q)) : FollowsSine (-v) p := by
  have hneg : ((-v : ℤ) : ℝ) - -Real.sin (phaseAngle q) * 8388607
      = -((v : ℝ) - Real.sin (phaseAngle q) * 8388607) := by
    push_cast
    ring
  rw [FollowsSine, hsin, hneg, abs_neg]
  exact h

/-- The reference kernel follows the real sine on the whole turn, quadrant by quadrant (R254). -/
theorem sinRef_followsSine {p : ℕ} (hp : p < 1048576) : FollowsSine (sinRef p) p := by
  have hquadrant (r : ℕ) (hr : r ≤ 262144) : FollowsSine (sinQuadrant r) r := sinQuadrant_near hr
  have hr : p % 262144 < 262144 := Nat.mod_lt _ (by decide)
  have hsplit : p = p % 262144 ∨ p = 262144 + p % 262144 ∨ p = 524288 + p % 262144
      ∨ p = 524288 + (262144 + p % 262144) := by omega
  generalize p % 262144 = r at hr hsplit
  obtain ⟨hfirst, hsecond, hthird, hfourth⟩ := sinRef_fold hr
  have hmirror := sin_phaseAngle_quarter_turn_add hr.le
  obtain rfl | rfl | rfl | rfl := hsplit
  · rw [hfirst]
    exact hquadrant p hr.le
  · rw [hsecond]
    exact followsSine_of_sin_eq (hquadrant _ (Nat.sub_le _ _)) hmirror
  · rw [hthird]
    exact followsSine_neg (hquadrant r hr.le) (sin_phaseAngle_half_turn_add r)
  · rw [show 524288 + (262144 + r) = 786432 + r by omega, hfourth]
    refine followsSine_neg (hquadrant _ (Nat.sub_le _ _)) ?_
    rw [← hmirror, ← sin_phaseAngle_half_turn_add, show 524288 + (262144 + r) = 786432 + r by omega]

/-- Every kernel is exact at the quadrant points (R254). -/
theorem sinfn_quadrant_points (k : KernelChoice) :
    sinfn k 0 = 0 ∧ sinfn k 262144 = 8388607 ∧ sinfn k 524288 = 0 ∧ sinfn k 786432 = -8388607 := by
  cases k with
  | reference => exact ⟨rfl, rfl, rfl, rfl⟩
  | other => exact ⟨rfl, rfl, rfl, rfl⟩

/-- The further values of the reference kernel that R254 lists. -/
theorem sinRef_listed_values : sinRef 1 = 50 ∧ sinRef 256 = 12868 ∧ sinRef 512 = 25736
    ∧ sinRef 131072 = 5931641 ∧ sinRef 1048575 = -50 :=
  ⟨rfl, rfl, rfl, rfl, rfl⟩

/-- Settles O30: the listed points by evaluation, the range and the real sine at every phase. -/
theorem sineKernelProperties : Obligations.SineKernelProperties := by
  refine ⟨fun k => ?_, ?_⟩
  · obtain ⟨hzero, hquarter, hhalf, hthree⟩ := sinfn_quadrant_points k
    exact ⟨sinfn_bounds k, hzero, hquarter, hhalf, hthree, fun _ => rfl⟩
  · obtain ⟨h1, h256, h512, h131072, h1048575⟩ := sinRef_listed_values
    exact ⟨h1, h256, h512, h131072, h1048575, fun _ hp => sinRef_followsSine hp⟩

end Sys2Proof.Proofs

/-! PROOFS. Between ticks with nothing to do: a machine that waits, and one asked only for a snapshot, which
is a host action that writes nothing. -/

namespace Sys2Proof.Proofs

open Sys2Proof.Machine Sys2Proof.Laws

/-- A snapshot presents the state and writes nothing of it (R311). -/
@[simp] theorem perform_snapshot (s : State) : s.perform .snapshot = s := rfl

/-- Settles O50: with no request a step waits; with a snapshot next, it performs that action. -/
theorem snapshotAndWaitingChangeNothing : Obligations.SnapshotAndWaitingChangeNothing := by
  intro s hphase
  refine ⟨fun hpending => step_waiting hphase hpending, fun rest hpending => ?_⟩
  rw [step_perform hphase hpending, perform_snapshot]

end Sys2Proof.Proofs

/-! PROOFS. The host actions that replace the state: which images Load accepts, what Load keeps either way,
and the state that Reset and Unload leave. Last, words of the spec's vectors through the decoder. -/

namespace Sys2Proof.Proofs

open Sys2Proof.Machine Sys2Proof.Safety Sys2Proof.Laws

/-! ### The verdict of Load -/

/-- The checks of `Load`, in both directions: an image is accepted as the words it reads as, exactly when
they fit the program memory and are valid (R322). -/
theorem acceptImage_eq_some_iff {img : Image} {ws : List Word32} :
    acceptImage img = some ws ↔
      img.words? = some ws ∧ ws.length ≤ Config.nInstr ∧ ∀ w ∈ ws, validWord w = true := by
  unfold acceptImage
  cases img.words? with
  | none => simp
  | some vs =>
    rw [Option.ite_none_right_eq_some, List.all_eq_true, Option.some_inj]
    constructor
    · rintro ⟨hok, rfl⟩
      exact ⟨rfl, hok⟩
    · rintro ⟨rfl, hok⟩
      exact ⟨hok, rfl⟩

/-- A truncated image, one too long, and one with an invalid word are refused (R322). -/
theorem acceptImage_eq_none {img : Image}
    (h : img.words? = none ∨ ∃ ws, img.words? = some ws
      ∧ (Config.nInstr < ws.length ∨ ∃ w ∈ ws, validWord w = false)) :
    acceptImage img = none := by
  refine Option.eq_none_iff_forall_ne_some.2 fun vs haccept => ?_
  obtain ⟨hwords, hfits, hvalid⟩ := acceptImage_eq_some_iff.1 haccept
  obtain hnone | ⟨ws, hws, hbad⟩ := h
  · exact Option.some_ne_none vs (hwords.symm.trans hnone)
  · obtain rfl : vs = ws := Option.some.inj (hwords.symm.trans hws)
    obtain hlong | ⟨w, hw, hinvalid⟩ := hbad
    · exact Nat.not_lt.2 hfits hlong
    · exact absurd (hvalid w hw) (Bool.eq_false_iff.1 hinvalid)

/-! ### What the host actions leave -/

/-- What `Load` keeps, accepted or refused: the requests, the parameters, the two outputs, and that no tick
is under way (R323, R324, log entry 9). -/
theorem load_keeps (s : State) (img : Image) :
    (s.load img).pending = s.pending ∧ (s.load img).cfg = s.cfg
      ∧ (s.load img).outL = s.outL ∧ (s.load img).outR = s.outR
      ∧ (s.phase = .between → (s.load img).phase = .between) := by
  cases h : acceptImage img with
  | none =>
    rw [load_refused h]
    exact ⟨rfl, rfl, rfl, rfl, id⟩
  | some ws =>
    rw [load_accepted h]
    exact ⟨rfl, rfl, rfl, rfl, fun _ => rfl⟩

/-- The installed program: its words in their slots, and the pad word after them (R22, R324). -/
theorem progWord_load {img : Image} {ws : List Word32} (h : acceptImage img = some ws) (s : State)
    (i : Nat) : (s.load img).progWord i = ws.getD i padWord := by
  rw [load_accepted h, State.progWord, read_programCells, if_pos (Nat.zero_le i), Nat.sub_zero]

/-- Apart from the mode and the program, an accepted `Load` gives the state of reset (R324). -/
theorem sameCore_load_accepted {img : Image} {ws : List Word32} (h : acceptImage img = some ws)
    (s : State) :
    SameCore (s.load img)
      { State.reset with
        mode := .loaded, plen := (s.load img).plen, prog := (s.load img).prog } := by
  rw [load_accepted h]
  constructor <;> rfl

/-- A refused `Load` changes no state (R323). -/
theorem sameCore_load_refused {img : Image} (h : acceptImage img = none) (s : State) :
    SameCore s (s.load img) := by
  rw [load_refused h]
  constructor <;> rfl

/-- Clearing gives every piece of state its value of reset (R320, R325). -/
theorem sameCore_cleared (s : State) : SameCore s.cleared State.reset := by
  constructor <;> rfl

/-- `Reset` and `Unload` are one action (R320, R325). -/
theorem perform_resetOrUnload {a : HostAction} (h : a = .reset ∨ a = .unload) (s : State) :
    s.perform a = s.cleared := by
  obtain rfl | rfl := h <;> rfl

/-! ### The obligations on host actions -/

/-- Settles O48, by the verdict on the image. -/
theorem loadIsAllOrNothing : Obligations.LoadIsAllOrNothing := by
  intro s img rest hphase hpending
  obtain ⟨hrest, hcfg, -, -, hbetween⟩ := load_keeps { s with pending := rest } img
  refine ⟨_, step_perform hphase hpending, hrest, hbetween hphase, hcfg, fun ws hwords hfits hvalid => ?_,
    fun hbad => ?_⟩
  · have haccept : acceptImage img = some ws := acceptImage_eq_some_iff.2 ⟨hwords, hfits, hvalid⟩
    have hload := load_accepted haccept { s with pending := rest }
    exact ⟨congrArg State.loadOk hload, congrArg State.plen hload, progWord_load haccept _,
      sameCore_load_accepted haccept _⟩
  · have hrefuse : acceptImage img = none := acceptImage_eq_none hbad
    have hsame := sameCore_load_refused hrefuse { s with pending := rest }
    exact ⟨congrArg State.loadOk (load_refused hrefuse _), { hsame with }⟩

/-- Settles O49: both actions clear, and Load keeps the outputs. -/
theorem resetAndUnloadClear : Obligations.ResetAndUnloadClear := by
  intro s a rest hphase hpending
  have hstep := step_perform hphase hpending
  refine ⟨fun ha => ?_, ?_⟩
  · rw [perform_resetOrUnload ha] at hstep
    exact ⟨_, hstep, sameCore_cleared _, rfl, rfl, rfl, rfl, rfl, rfl⟩
  · rintro img rfl
    obtain ⟨-, -, hl, hr, -⟩ := load_keeps { s with pending := rest } img
    exact ⟨_, hstep, hl, hr⟩

/-! ### The words of the vectors -/

/-- A word that the encoder writes for a well-formed machine instruction decodes to it (R121). -/
theorem decode_of_encode_eq {w : Word32} {i : MachineInstr} (hw : encode i.instr = w)
    (hwf : i.instr.wellFormed = true) : decode w = .ok i :=
  hw ▸ decode_encode hwf

/-- Settles O39: the six words are the encoder's; the last two have no opcode and no writable register. -/
theorem vectorWordsDecode : Obligations.VectorWordsDecode :=
  ⟨decode_of_encode_eq (by decide) rfl, decode_of_encode_eq (by decide) rfl,
    decode_of_encode_eq (by decide) rfl, decode_of_encode_eq (by decide) rfl,
    decode_of_encode_eq (by decide) rfl, decode_of_encode_eq (by decide) rfl,
    by decide, by decide⟩

end Sys2Proof.Proofs
